-- ==== Sys2Proof/Word.lean ====
section
/-! DEFINITION. The value types of TM1637PLUS-CORE (00_scope.md section 5.1, 10_state.md rules R21, R23, R25, R28). -/

namespace Sys2Proof

/-- `u8`, `seg`, `chr`, and the bit pattern of an `s8` (00_scope.md section 5.1). -/
abbrev Byte := BitVec 8

/-- `u16` (00_scope.md section 5.1). -/
abbrev Half := BitVec 16

/-- The two output lines (00_scope.md section 5.1, type `line`). -/
inductive Line where
  | clk
  | dio
deriving DecidableEq, Repr

/-- A line's direction (R25): `UNCONFIGURED` says only that CORE has not yet configured the line. -/
inductive Dir where
  | unconfigured
  | out
deriving DecidableEq, Repr

/-- The transaction state `TXN` (R28), which is also the `phase` of `SEQ` (R23). -/
inductive Phase where
  | idle
  | start
  | byte
  | stop
deriving DecidableEq, Repr

/-- The operations that can be in progress on the `CTL` port, as `SEQ` names them (R23, R80). -/
inductive CtlOp where
  | construct
  | brightnessGet
  | brightnessSet
  | write
  | showText
  | setRaw
  | setChar
  | scroll
deriving DecidableEq, Repr

/-- The stored part of the sequencer position `SEQ` (R23): its component `phase` equals `TXN`, which State holds
once. No component wraps, so each is a natural number. -/
structure Seq where
  /-- the operation in progress, or none (`NONE`) -/
  op : Option CtlOp
  /-- for SCROLL, the index of the character being scrolled in -/
  iter : Nat
  /-- index of the transaction within the operation (within the current SHOW of a SCROLL) -/
  txn : Nat
  /-- index of the byte within the transaction -/
  byte : Nat
  /-- 0..7 a data bit, 8 the ACK slot -/
  slot : Nat
  /-- index of the next micro-step inside the phase or slot -/
  sub : Nat
deriving DecidableEq, Repr

/-- `SEQ` between operations (R23): `(NONE, 0, 0, IDLE, 0, 0, 0)`, its phase being `TXN`. -/
def Seq.idle : Seq := { op := none, iter := 0, txn := 0, byte := 0, slot := 0, sub := 0 }

/-- The operand latches `x[..]` (R21). -/
structure Latches where
  /-- `x[OPC]` -/
  opc : Byte
  /-- `x[POS]`, the pattern of an `s8` -/
  pos : Byte
  /-- `x[V]` -/
  v : Byte
  /-- `x[DATA]` -/
  data : Byte
  /-- `x[CH]` -/
  ch : Byte
  /-- `x[FLAG]`: `colon` or `dot` -/
  flag : Bool
  /-- `x[DELAY_MS]` -/
  delayMs : Half
  /-- `x[VALUE]` -/
  value : Half
  /-- `x[D]` -/
  d : Byte
  /-- `x[CLKID]` -/
  clkId : Byte
  /-- `x[DIOID]` -/
  dioId : Byte
  /-- `x[S]` -/
  s : List Byte
  /-- `x[SEGS]` -/
  segs : List Byte
deriving DecidableEq, Repr, Inhabited

end Sys2Proof
end

