-- ==== Sys2Proof/Config.lean ====
section
/-! DEFINITION. The parameters of CORE (00_scope.md rule R6). A parameter the spec calls OPEN is a constant with no body:
no proof can see its value. The bounds the spec does give are in the types. -/

namespace Sys2Proof.Config

/-- `DEFAULT_BRIGHTNESS` (R6, D10): OPEN, in 0..7. The spec leaves open whether several instances (R196) have the same value; this
model has one constant for all of them (DESIGN CHOICE, notes/assumptions/16.md). -/
opaque defaultBrightness : BitVec 3

/-- `SEG_LETTER[6..25]`, the patterns of the letters g to z at ROM index 16..35 (R131, D8): OPEN. Seven bits: bit 7 of
every ROM entry is 0 (R131, D9). -/
opaque segLetter : Fin 20 → BitVec 7

/-- `STAR`, the pattern at ROM index 37 (R131, D8): OPEN, bit 7 is 0 (D9). -/
opaque star : BitVec 7

/-- FREE VALUE (notes/assumptions/4.md): the values of the latches that an accepted packet does not carry, which R21 says hold no
defined value. Applied to the counter `fresh` of State; one function for all instances (DESIGN CHOICE, the
same entry). -/
opaque freeLatches : Nat → Latches

/-- `POS_MIN` and `POS_MAX` (R6): the start positions `WRITE` accepts. -/
def posMin : Int := 0
def posMax : Int := 4
/-- `DEV_POS_MAX` (R6, R53): the last position of the device. -/
def devPosMax : Nat := 5
/-- `MAX_TXN_DATA` (R6). -/
def maxTxnData : Nat := 6
/-- `ENC_MAX` (R6). -/
def encMax : Nat := 4
/-- `SCROLL_DELAY_DEFAULT_MS` (R6, R100): filled in by the assembler. -/
def scrollDelayDefaultMs : Half := 250
/-- `CMD_DATA_AUTO` (R6, R90). -/
def cmdDataAuto : Byte := 0x40
/-- `CMD_DATA_FIXED` (R6, R91). -/
def cmdDataFixed : Byte := 0x44
/-- `CMD_ADDR_BASE` (R6, R93). -/
def cmdAddrBase : Byte := 0xC0
/-- `CMD_DISP_BASE` (R6, R92). -/
def cmdDispBase : Byte := 0x80
/-- `DISP_ON` (R6, R92). -/
def dispOn : Byte := 0x08
/-- `DOT_BIT` (R6, R50). -/
def dotBit : Byte := 0x80
/-- `BLANK` (R6). -/
def blank : Byte := 0x00
/-- `DASH` (R6, R131, D8). -/
def dash : Byte := 0x40
/-- `DELAY_UNIT_US` (R6, R7): the same for every line write; no rule computes with it (R192), a claim about durations does (R235). -/
def delayUnitUs : Nat := 10
/-- The longest string operand (R21, R82: the length field is a `u16`). -/
def maxStrLen : Nat := 65535
/-- The largest `value` of `NUMBER` (R83, `WF_NUMBER`). -/
def maxNumber : Nat := 9999

end Sys2Proof.Config
end

