-- ==== Sys2Proof/Syntax.lean ====
section
/-! DEFINITION. The operations of CORE (30_encoding.md rule R80) and the bus command bytes (R90 to R93), one constructor for
each row of opcode_table.json, and the packets that carry them. -/

namespace Sys2Proof

/-- The rows of opcode_table.json. Operands stand in the order of the packet (R82). -/
inductive Instr where
  /-- `CONSTRUCT(clk_id, dio_id)` (R150) -/
  | construct (clkId dioId : Byte)
  /-- `BRIGHTNESS_GET()` (R151) -/
  | brightnessGet
  /-- `BRIGHTNESS_SET(v)` (R152) -/
  | brightnessSet (v : Byte)
  /-- `WRITE(segments, pos)` (R153); `pos` is the pattern of an `s8` -/
  | write (pos : Byte) (segments : List Byte)
  /-- `SHOW(s, colon)` (R154); named so because Lean keeps the word `show` -/
  | showText (colon : Bool) (str : List Byte)
  /-- `SET_RAW(pos, data)` (R155) -/
  | setRaw (pos data : Byte)
  /-- `SET_CHAR(pos, ch, dot)` (R156) -/
  | setChar (pos ch : Byte) (dot : Bool)
  /-- `SCROLL(s, delay_ms)` (R157) -/
  | scroll (delayMs : Half) (str : List Byte)
  /-- `ENCODE_DIGIT(d)` (R132) -/
  | encodeDigit (d : Byte)
  /-- `ENCODE_CHAR(c)` (R133) -/
  | encodeChar (c : Byte)
  /-- `ENCODE_STRING(s)` (R134) -/
  | encodeString (str : List Byte)
  /-- `HEX(value)` (R135) -/
  | hex (value : Half)
  /-- `NUMBER(value)` (R136) -/
  | number (value : Half)
  /-- `START` (R110), internal -/
  | start
  /-- `STOP` (R111), internal -/
  | stop
  /-- `WRITE_BYTE(b)` (R112), internal -/
  | writeByte (b : Byte)
  /-- `COMMAND_SEQUENCE(cmd)` (R113), internal -/
  | commandSequence (cmd : Byte)
  /-- the byte 0x40 (R90) -/
  | busDataAutoinc
  /-- the byte 0x44 (R91) -/
  | busDataFixed
  /-- the byte `0b1000_1bbb` (R92) -/
  | busDisplayCtrl (b : BitVec 3)
  /-- the byte `0b1100_0ppp` (R93) -/
  | busAddress (p : BitVec 3)
deriving DecidableEq, Repr

/-- Where a packet's bytes come from. `ctl` and `enc` are CORE's two ports (R60, R80). `uop` and `bus` are no ports: the
internal codes of the micro-operations, "in a space of their own" (R82), and the bus command bytes, which CORE sends and never
decodes (30_encoding.md section 3). They are here so that every row of the table can be run (notes/assumptions/2.md). -/
inductive Source where
  | ctl
  | enc
  | uop
  | bus
deriving DecidableEq, Repr

/-- A packet: its source and its bytes (R81). -/
structure Packet where
  source : Source
  bytes : List Byte
deriving DecidableEq, Repr

/-- The packets a host can issue: those on a port (R80). -/
def Packet.fromHost (p : Packet) : Bool :=
  match p.source with
  | .ctl => true
  | .enc => true
  | .uop => false
  | .bus => false

end Sys2Proof
end

