-- ==== Sys2Proof/WellFormed.lean ====
section
/-! DEFINITION. The named checks of a packet (30_encoding.md rule R83). The decoder makes the first three, which are about the
packet's bytes; the others are about an instruction's operands and are made here. -/

namespace Sys2Proof

/-- The checks of R83. -/
inductive Check where
  /-- `WF_OPCODE`: byte 0 is an opcode of the source -/
  | opcode
  /-- `WF_LENGTH`: the packet has exactly the length of R82 -/
  | length
  /-- `WF_FLAG`: a truth value is 0x00 or 0x01 -/
  | flag
  /-- `WF_SEGLEN`: `WRITE` has at most 6 segment values -/
  | segLen
  /-- `WF_STR`: no character of a string is 0x00 -/
  | str
  /-- `WF_LINES`: the line identifiers of `CONSTRUCT` differ -/
  | lines
  /-- `WF_NUMBER`: the value of `NUMBER` is at most 9999 -/
  | number
deriving DecidableEq, Repr

/-- The first check a string operand fails: its length fits the length field (R82), no character is 0x00 (`WF_STR`). -/
def strCheck (str : List Byte) : Option Check :=
  if Config.maxStrLen < str.length then some .length
  else if 0 ∈ str then some .str
  else none

/-- The first check of R83 an instruction's operands fail. -/
def Instr.illFormed : Instr → Option Check
  | .construct clkId dioId => if clkId = dioId then some .lines else none
  | .brightnessGet => none
  | .brightnessSet _ => none
  | .write _ segments => if Config.maxTxnData < segments.length then some .segLen else none
  | .showText _ str => strCheck str
  | .setRaw _ _ => none
  | .setChar _ _ _ => none
  | .scroll _ str => strCheck str
  | .encodeDigit _ => none
  | .encodeChar _ => none
  | .encodeString str => strCheck str
  | .hex _ => none
  | .number value => if Config.maxNumber < value.toNat then some .number else none
  | .start => none
  | .stop => none
  | .writeByte _ => none
  | .commandSequence _ => none
  | .busDataAutoinc => none
  | .busDataFixed => none
  | .busDisplayCtrl _ => none
  | .busAddress _ => none

/-- An instruction all of whose checks hold (R83). -/
def Instr.wellFormed (i : Instr) : Bool := i.illFormed.isNone

end Sys2Proof
end

