-- ==== Sys2Proof/Decode.lean ====
section
/-! DEFINITION. From a packet's bytes to an instruction and back (30_encoding.md rules R81, R82, R90 to R93), the assembler's
defaults (R100), and the host's numbering of a row's bits. -/

namespace Sys2Proof

/-- A 16-bit operand, low byte first (R81). -/
def u16 (lo hi : Byte) : Half := hi ++ lo
/-- The low byte of a 16-bit operand (R81). -/
def loByte (v : Half) : Byte := v.extractLsb' 0 8
/-- The high byte of a 16-bit operand (R81). -/
def hiByte (v : Half) : Byte := v.extractLsb' 8 8

/-- A truth value (`WF_FLAG`, R83). -/
def decodeFlag (b : Byte) : Except Check Bool :=
  if b = 0 then .ok false else if b = 1 then .ok true else .error .flag

/-- The byte of a truth value (R83). -/
def encodeFlag (f : Bool) : Byte := if f then 1 else 0

/-- A sequence operand whose length field said `n`: all the bytes that are left, if they are `n` (`WF_LENGTH`). -/
def decodeSeq (n : Nat) (rest : List Byte) : Except Check (List Byte) :=
  if rest.length = n then .ok rest else .error .length

/-- A packet on the `CTL` port (R82). The length is checked before the flag. -/
def decodeCtl (op : Byte) (rest : List Byte) : Except Check Instr :=
  match op.toNat with
  | 0x00 => match rest with
    | [clkId, dioId] => .ok (.construct clkId dioId)
    | _ => .error .length
  | 0x01 => match rest with
    | [] => .ok .brightnessGet
    | _ => .error .length
  | 0x02 => match rest with
    | [v] => .ok (.brightnessSet v)
    | _ => .error .length
  | 0x03 => match rest with
    | pos :: n :: segments => (decodeSeq n.toNat segments).map (.write pos)
    | _ => .error .length
  | 0x04 => match rest with
    | colon :: lo :: hi :: str =>
      (decodeSeq (u16 lo hi).toNat str).bind fun str => (decodeFlag colon).map fun f => .showText f str
    | _ => .error .length
  | 0x05 => match rest with
    | [pos, data] => .ok (.setRaw pos data)
    | _ => .error .length
  | 0x06 => match rest with
    | [pos, ch, dot] => (decodeFlag dot).map (.setChar pos ch)
    | _ => .error .length
  | 0x07 => match rest with
    | dlo :: dhi :: lo :: hi :: str => (decodeSeq (u16 lo hi).toNat str).map (.scroll (u16 dlo dhi))
    | _ => .error .length
  | _ => .error .opcode

/-- A packet on the `ENC` port (R82). -/
def decodeEnc (op : Byte) (rest : List Byte) : Except Check Instr :=
  match op.toNat with
  | 0x10 => match rest with
    | [d] => .ok (.encodeDigit d)
    | _ => .error .length
  | 0x11 => match rest with
    | [c] => .ok (.encodeChar c)
    | _ => .error .length
  | 0x12 => match rest with
    | lo :: hi :: str => (decodeSeq (u16 lo hi).toNat str).map .encodeString
    | _ => .error .length
  | 0x13 => match rest with
    | [lo, hi] => .ok (.hex (u16 lo hi))
    | _ => .error .length
  | 0x14 => match rest with
    | [lo, hi] => .ok (.number (u16 lo hi))
    | _ => .error .length
  | _ => .error .opcode

/-- The internal codes of the micro-operations (R82, last paragraph). -/
def decodeUop (op : Byte) (rest : List Byte) : Except Check Instr :=
  match op.toNat with
  | 0x20 => match rest with
    | [] => .ok .start
    | _ => .error .length
  | 0x21 => match rest with
    | [] => .ok .stop
    | _ => .error .length
  | 0x22 => match rest with
    | [b] => .ok (.writeByte b)
    | _ => .error .length
  | 0x23 => match rest with
    | [cmd] => .ok (.commandSequence cmd)
    | _ => .error .length
  | _ => .error .opcode

/-- The bus command bytes (R90 to R93), by the match and mask of opcode_table.json. -/
def decodeBus (op : Byte) (rest : List Byte) : Except Check Instr :=
  match rest with
  | [] =>
    if op = 0x40 then .ok .busDataAutoinc
    else if op = 0x44 then .ok .busDataFixed
    else if op &&& 0xF8 = 0x88 then .ok (.busDisplayCtrl (op.extractLsb' 0 3))
    else if op &&& 0xF8 = 0xC0 then .ok (.busAddress (op.extractLsb' 0 3))
    else .error .opcode
  | _ => .error .length

/-- The decoder: total on any packet, rejecting by the name of the failed check (R83). A packet with no byte 0 has no opcode
and fails `WF_LENGTH` (notes/assumptions/5.md). -/
def decode (p : Packet) : Except Check Instr :=
  match p.bytes with
  | [] => .error .length
  | op :: rest =>
    match p.source with
    | .ctl => decodeCtl op rest
    | .enc => decodeEnc op rest
    | .uop => decodeUop op rest
    | .bus => decodeBus op rest

/-- Byte 0 of an instruction (R82, R90 to R93). -/
def Instr.opcode : Instr → Byte
  | .construct _ _ => 0x00
  | .brightnessGet => 0x01
  | .brightnessSet _ => 0x02
  | .write _ _ => 0x03
  | .showText _ _ => 0x04
  | .setRaw _ _ => 0x05
  | .setChar _ _ _ => 0x06
  | .scroll _ _ => 0x07
  | .encodeDigit _ => 0x10
  | .encodeChar _ => 0x11
  | .encodeString _ => 0x12
  | .hex _ => 0x13
  | .number _ => 0x14
  | .start => 0x20
  | .stop => 0x21
  | .writeByte _ => 0x22
  | .commandSequence _ => 0x23
  | .busDataAutoinc => 0x40
  | .busDataFixed => 0x44
  | .busDisplayCtrl b => (0b10001 : BitVec 5) ++ b
  | .busAddress p => (0b11000 : BitVec 5) ++ p

/-- Where an instruction's packet goes (R80, table column `port`). -/
def Instr.source : Instr → Source
  | .construct _ _ => .ctl
  | .brightnessGet => .ctl
  | .brightnessSet _ => .ctl
  | .write _ _ => .ctl
  | .showText _ _ => .ctl
  | .setRaw _ _ => .ctl
  | .setChar _ _ _ => .ctl
  | .scroll _ _ => .ctl
  | .encodeDigit _ => .enc
  | .encodeChar _ => .enc
  | .encodeString _ => .enc
  | .hex _ => .enc
  | .number _ => .enc
  | .start => .uop
  | .stop => .uop
  | .writeByte _ => .uop
  | .commandSequence _ => .uop
  | .busDataAutoinc => .bus
  | .busDataFixed => .bus
  | .busDisplayCtrl _ => .bus
  | .busAddress _ => .bus

/-- A string operand with its length field, low byte first (R81, R82). -/
def encodeStr (str : List Byte) : List Byte :=
  loByte (BitVec.ofNat 16 str.length) :: hiByte (BitVec.ofNat 16 str.length) :: str

/-- The operand bytes of an instruction (R82). -/
def Instr.operandBytes : Instr → List Byte
  | .construct clkId dioId => [clkId, dioId]
  | .brightnessGet => []
  | .brightnessSet v => [v]
  | .write pos segments => pos :: BitVec.ofNat 8 segments.length :: segments
  | .showText colon str => encodeFlag colon :: encodeStr str
  | .setRaw pos data => [pos, data]
  | .setChar pos ch dot => [pos, ch, encodeFlag dot]
  | .scroll delayMs str => loByte delayMs :: hiByte delayMs :: encodeStr str
  | .encodeDigit d => [d]
  | .encodeChar c => [c]
  | .encodeString str => encodeStr str
  | .hex value => [loByte value, hiByte value]
  | .number value => [loByte value, hiByte value]
  | .start => []
  | .stop => []
  | .writeByte b => [b]
  | .commandSequence cmd => [cmd]
  | .busDataAutoinc => []
  | .busDataFixed => []
  | .busDisplayCtrl _ => []
  | .busAddress _ => []

/-- The packet of an instruction (R81, R82). -/
def encode (i : Instr) : Packet := { source := i.source, bytes := i.opcode :: i.operandBytes }

/-- `WRITE` with its default `pos = 0`, as the assembler fills it in (R100). -/
def asmWrite (segments : List Byte) (pos : Byte := 0) : Instr := .write pos segments
/-- `SHOW` with its default `colon = false` (R100). -/
def asmShow (str : List Byte) (colon : Bool := false) : Instr := .showText colon str
/-- `SCROLL` with its default `delay_ms = 250` (R100). -/
def asmScroll (str : List Byte) (delayMs : Half := Config.scrollDelayDefaultMs) : Instr := .scroll delayMs str

/-- A program as the packets the host issues, in order (R100). -/
def assemble (program : List Instr) : List Packet := program.map encode

/-- The source whose table rows byte 0 belongs to: the rows of opcode_table.json have disjoint values of byte 0. -/
def tableSource (op : Byte) : Source :=
  if op.toNat < 0x10 then .ctl else if op.toNat < 0x20 then .enc else if op.toNat < 0x40 then .uop else .bus

/-- The length of the packet that byte 0 and the length field announce (R81), where byte `k` of the packet is `at k`;
1 for an unknown opcode. -/
def packetLength (byteAt : Nat → Byte) : Nat :=
  match (byteAt 0).toNat with
  | 0x00 => 3
  | 0x01 => 1
  | 0x02 => 2
  | 0x03 => 3 + (byteAt 2).toNat
  | 0x04 => 4 + (u16 (byteAt 2) (byteAt 3)).toNat
  | 0x05 => 3
  | 0x06 => 4
  | 0x07 => 5 + (u16 (byteAt 3) (byteAt 4)).toNat
  | 0x10 => 2
  | 0x11 => 2
  | 0x12 => 3 + (u16 (byteAt 1) (byteAt 2)).toNat
  | 0x13 => 3
  | 0x14 => 3
  | 0x22 => 2
  | 0x23 => 2
  | _ => 1

/-- Byte `k` of the instruction whose low `nbits` bits are `w` and whose other bits are 0, numbered as the table numbers them. -/
def tableByte (nbits w k : Nat) : Byte := if k < nbits / 8 then BitVec.ofNat 8 (w / 256 ^ k) else 0

/-- The packet of that instruction: the bits given, and the zeros that complete it to the length it announces. -/
def tablePacket (nbits w : Nat) : Packet :=
  { source := tableSource (tableByte nbits w 0)
    bytes := (List.range (max (packetLength (tableByte nbits w)) (nbits / 8))).map (tableByte nbits w) }

/-- The instruction the decoder reads from an instruction whose bits are `w`; none where it refuses. -/
def decodeTableWord (nbits w : Nat) : Option Instr :=
  match decode (tablePacket nbits w) with
  | .ok i => some i
  | .error _ => none

end Sys2Proof
end

