-- ==== Sys2Proof/Machine/State.lean ====
section
/-! DEFINITION. The state of one CORE (10_state.md rule R20), its reset (R34, R210), the trace events (00_scope.md rule R8), and
the reasons a step can stop. -/

namespace Sys2Proof.Machine

/-- A diagnostic (R180): what `Diag(code, info)` reports. -/
inductive Diag where
  /-- code 1, `BRIGHTNESS_RANGE`, with the operand `v` (R183) -/
  | brightnessRange (v : Byte)
  /-- code 2, `POSITION_RANGE`, with the operand `pos`, an `s8` (R182) -/
  | positionRange (pos : Byte)
  /-- code 3, `ENCODING_MISS`, with the character (R184) -/
  | encodingMiss (c : Byte)
deriving DecidableEq, Repr

/-- An event of the trace `TR` (R8). -/
inductive Event where
  /-- `Cfg(l)` -/
  | cfg (l : Line)
  /-- `Set(l, b)` -/
  | set (l : Line) (b : Bool)
  /-- `Delay` -/
  | delay
  /-- `Sleep(ms)` -/
  | sleep (ms : Half)
  /-- `Diag(code, info)` -/
  | diag (d : Diag)
deriving DecidableEq, Repr

/-- What an operation gives back to the host (R82, column `returns`). -/
inductive Reply where
  /-- the value of `BRIGHTNESS_GET`, on the result port of `CTL` (R151) -/
  | byte (v : Byte)
  /-- one segment value and its diagnostics, on the `ENC` port (R130) -/
  | seg (v : Byte) (diags : List Diag)
  /-- a sequence of segment values and its diagnostics, on the `ENC` port (R130) -/
  | segs (vs : List Byte) (diags : List Diag)
deriving DecidableEq, Repr

/-- The state of one instance of CORE (R20). The last two fields are the model's own. -/
structure State where
  /-- `BRIGHT` (R24) -/
  bright : BitVec 3
  /-- `CLK_ID` (R26) -/
  clkId : Byte
  /-- `DIO_ID` (R26) -/
  dioId : Byte
  /-- the level of `CLK`; true is 1, high (R25) -/
  clk : Bool
  /-- the level of `DIO` (R25) -/
  dio : Bool
  /-- `CLK_DIR` (R25) -/
  clkDir : Dir
  /-- `DIO_DIR` (R25) -/
  dioDir : Dir
  /-- `CONSTRUCTED` (R27) -/
  constructed : Bool
  /-- `BUSY` (R27) -/
  busy : Bool
  /-- `TXN` (R28), and the `phase` of `SEQ` (R23) -/
  txn : Phase
  /-- `SEQ` but for its phase (R23) -/
  seq : Seq
  /-- the operand latches `x[..]` (R21) -/
  x : Latches
  /-- `SEGBUF[0..5]` (R29) -/
  segbuf : Vector Byte 6
  /-- `SEGLEN`, in 0..6 (R29) -/
  seglen : Nat
  /-- `WIN[0..3]` (R29) -/
  win : Vector Byte 4
  /-- `FMT[0..3]` (R29) -/
  fmt : Vector Byte 4
  /-- the trace `TR` (R8) -/
  tr : List Event
  /-- the byte log `BL` (R68) -/
  bl : List (List Byte)
  /-- the values given on the result ports, oldest first (R8, R82; notes/assumptions/3.md) -/
  replies : List Reply
  /-- the model's own: the packets the host still has to issue, the next one first (notes/assumptions/1.md) -/
  inbox : List Packet
  /-- the model's own: how many free values have been used (notes/assumptions/4.md) -/
  fresh : Nat
deriving DecidableEq, Repr

/-- `SEQ` as R23 writes it: `(op, iter, txn, phase, byte, slot, sub)`. -/
def State.seqTuple (s : State) : Option CtlOp × Nat × Nat × Phase × Nat × Nat × Nat :=
  (s.seq.op, s.seq.iter, s.seq.txn, s.txn, s.seq.byte, s.seq.slot, s.seq.sub)

/-- Why the machine could stop with a fault. Every error class of the source is "non-fatal" (R181), so no meaning of this
model ends in one. -/
inductive Fault where
  /-- The one condition the source calls fatal: "a transaction interrupted mid-flight" (R189, R224). Raised by no meaning: no step
  cuts an operation short (R224). Safe. -/
  | transactionInterrupted
deriving DecidableEq, Repr

/-- Why a packet has no meaning: it is refused, with no effect (R85). Every constructor is safe: the machine has no step. -/
inductive Refusal where
  /-- An instruction that has no meaning in this model yet; raised by exec alone. Safe. -/
  | notModelled (mnemonic : String)
  /-- A check of R83 fails; raised by step for the bytes of a packet and by a meaning for its operands. Safe. -/
  | illFormed (c : Check)
  /-- `CONSTRUCT` when `CONSTRUCTED = 1` (R84); raised by its meaning. Safe. -/
  | alreadyConstructed
  /-- Another `CTL` operation when `CONSTRUCTED = 0` (R84); raised by its meaning. Safe. -/
  | notConstructed
  /-- A `CTL` packet when `BUSY = 1`, which the port does not accept (R60, R64); raised by the `CTL` meanings. Safe. -/
  | busy
  /-- Two constructed instances have a line identifier in common (R196, 93_implementation_defined.md U8); raised by stepInstance, of a
  configuration that is so or a `CONSTRUCT` that would make it so, and by no meaning. Safe. -/
  | sharedLine
deriving DecidableEq, Repr

/-- Power-on (R34, R210). The values of CONSTRUCTED, BUSY, TXN, SEQ, the directions, TR and BL are the spec's; those of the elements
R34 calls unspecified are DESIGN CHOICES (notes/assumptions/6.md). -/
def State.reset : State where
  bright := 0
  clkId := 0
  dioId := 0
  clk := false
  dio := false
  clkDir := .unconfigured
  dioDir := .unconfigured
  constructed := false
  busy := false
  txn := .idle
  seq := Seq.idle
  x := { opc := 0, pos := 0, v := 0, data := 0, ch := 0, flag := false, delayMs := 0, value := 0, d := 0, clkId := 0,
         dioId := 0, s := [], segs := [] }
  segbuf := #v[0, 0, 0, 0, 0, 0]
  seglen := 0
  win := #v[0, 0, 0, 0]
  fmt := #v[0, 0, 0, 0]
  tr := []
  bl := []
  replies := []
  inbox := []
  fresh := 0

end Sys2Proof.Machine
end

