-- ==== Sys2Proof/Machine/Operands.lean ====
section
/-! DEFINITION. Operand assembly (30_encoding.md rule R95), the command bytes (R90 to R93), the segment ROM (20_memory.md rule
R52, 41_segment_encoder.md rule R131) and the encoder as functions (R130 to R136). -/

namespace Sys2Proof.Machine

/-- `code` of a diagnostic (R180). -/
def Diag.code : Diag → Nat
  | .brightnessRange _ => 1
  | .positionRange _ => 2
  | .encodingMiss _ => 3

/-- `info` of a diagnostic (R180): `pos` is signed, the others are not. -/
def Diag.info : Diag → Int
  | .brightnessRange v => v.toNat
  | .positionRange pos => pos.toInt
  | .encodingMiss c => c.toNat

/-- `v & 7` (R95). -/
def maskBright (v : Byte) : BitVec 3 := v.extractLsb' 0 3

/-- The address byte `(0xC0 | pos) mod 256`, on the 8-bit pattern of `pos` (R93). -/
def addressByte (pos : Byte) : Byte := Config.cmdAddrBase ||| pos

/-- The display-control byte `0x80 | 0x08 | BRIGHT` (R92). -/
def displayByte (bright : BitVec 3) : Byte := Config.cmdDispBase ||| Config.dispOn ||| bright.zeroExtend 8

/-- `WRITE` accepts `0 ≤ pos ≤ 4`, `pos` taken as a signed integer (R95, R153). -/
def positionValid (pos : Byte) : Bool := Config.posMin ≤ pos.toInt && pos.toInt ≤ Config.posMax

/-- The first 16 entries of the segment ROM (R131): the digits 0 to 9 and the hex digits a to f. -/
def digitPatterns : Vector Byte 16 :=
  #v[0x3F, 0x06, 0x5B, 0x4F, 0x66, 0x6D, 0x7D, 0x07, 0x7F, 0x6F, 0x77, 0x7C, 0x39, 0x5E, 0x79, 0x71]

/-- `SEG_ROM` (R52, R131): 0..9 digits, 10..35 letters a to z, 36 dash, 37 star. `MemRead(ROM, i, 1)` is `segRom i`. -/
def segRom (i : Fin 38) : Byte :=
  if h : i.val < 16 then digitPatterns[i.val]
  else if h' : i.val < 36 then (Config.segLetter ⟨i.val - 16, by omega⟩).zeroExtend 8
  else if i.val = 36 then Config.dash
  else Config.star.zeroExtend 8

/-- The ROM index of `ENCODE_DIGIT(d)`: `d & 0xF` (R95, R132). -/
def digitIndex (d : Byte) : Fin 38 := ⟨d.toNat % 16, by omega⟩

/-- `ENCODE_DIGIT(d)` (R132): no diagnostic for any `d`. -/
def encodeDigit (d : Byte) : Byte × List Diag := (segRom (digitIndex d), [])

/-- `ENCODE_CHAR(c)` (R133): by character class, else the blank pattern and one diagnostic. -/
def encodeChar (c : Byte) : Byte × List Diag :=
  if c.toNat = 0x20 then (Config.blank, [])
  else if c.toNat = 0x2A then (segRom 37, [])
  else if c.toNat = 0x2D then (segRom 36, [])
  else if h : 0x41 ≤ c.toNat ∧ c.toNat ≤ 0x5A then (segRom ⟨10 + (c.toNat - 0x41), by omega⟩, [])
  else if h : 0x61 ≤ c.toNat ∧ c.toNat ≤ 0x7A then (segRom ⟨10 + (c.toNat - 0x61), by omega⟩, [])
  else if h : 0x30 ≤ c.toNat ∧ c.toNat ≤ 0x39 then (segRom ⟨c.toNat - 0x30, by omega⟩, [])
  else (Config.blank, [.encodingMiss c])

/-- `ENCODE_CHAR` of each character in order, the values and the diagnostics each in order (R134). -/
def encodeChars : List Byte → List Byte × List Diag
  | [] => ([], [])
  | c :: rest => ((encodeChar c).1 :: (encodeChars rest).1, (encodeChar c).2 ++ (encodeChars rest).2)

/-- `ENCODE_STRING(s)` (R134): at most the first 4 characters. -/
def encodeString (str : List Byte) : List Byte × List Diag := encodeChars (str.take Config.encMax)

/-- `hexchr(n)` (R135). -/
def hexChr (n : Nat) : Byte := if n ≤ 9 then BitVec.ofNat 8 (0x30 + n) else BitVec.ofNat 8 (0x61 + (n - 10))

/-- The four formatted characters of `HEX` (R135), most significant digit first. -/
def hexChars (value : Half) : Vector Byte 4 :=
  #v[hexChr (value.extractLsb' 12 4).toNat, hexChr (value.extractLsb' 8 4).toNat,
     hexChr (value.extractLsb' 4 4).toNat, hexChr (value.extractLsb' 0 4).toNat]

/-- The four formatted characters of `NUMBER` (R136), for `value ≤ 9999`. -/
def numberChars (value : Half) : Vector Byte 4 :=
  #v[BitVec.ofNat 8 (0x30 + value.toNat / 1000), BitVec.ofNat 8 (0x30 + value.toNat / 100 % 10),
     BitVec.ofNat 8 (0x30 + value.toNat / 10 % 10), BitVec.ofNat 8 (0x30 + value.toNat % 10)]

/-- The dot or colon step: `v | 0x80` when asked for (R95). -/
def withDot (dot : Bool) (v : Byte) : Byte := if dot then v ||| Config.dotBit else v

/-- The colon step of `SHOW` (R154): bit 7 of the second value, if there is a second value. -/
def withColon (colon : Bool) : List Byte → List Byte
  | a :: b :: rest => a :: withDot colon b :: rest
  | [a] => [a]
  | [] => []

/-- The window shifted left by one, the new character rightmost (R157). -/
def shiftWindow (win : Vector Byte 4) (c : Byte) : Vector Byte 4 := #v[win[1], win[2], win[3], c]

/-- The window at the start of every `SCROLL`: four spaces (R157). -/
def blankWindow : Vector Byte 4 := #v[0x20, 0x20, 0x20, 0x20]

end Sys2Proof.Machine
end

