-- ==== Sys2Proof/Machine/Ops.lean ====
section
/-! DEFINITION. The primitives of the pseudocode (00_scope.md section 5.2), the micro-operations (40_bus_protocol.md) and the
raising of a diagnostic (60_exceptions.md), as operations on State. -/

namespace Sys2Proof.Machine

/-- Append events to `TR` (R8). -/
def State.emit (s : State) (es : List Event) : State := { s with tr := s.tr ++ es }

/-- `Cfg(l)` (R25): the line becomes an output. -/
def State.cfgLine (s : State) : Line → State
  | .clk => { s with clkDir := .out, tr := s.tr ++ [.cfg .clk] }
  | .dio => { s with dioDir := .out, tr := s.tr ++ [.cfg .dio] }

/-- `Set(l, b)` (R25): the level register and the event, also when the level does not change (R115). -/
def State.setLine (s : State) (l : Line) (b : Bool) : State :=
  match l with
  | .clk => { s with clk := b, tr := s.tr ++ [.set .clk b] }
  | .dio => { s with dio := b, tr := s.tr ++ [.set .dio b] }

/-- `Delay()`: an event and nothing else (R192, R222). -/
def State.delay (s : State) : State := s.emit [.delay]

/-- `Sleep(ms)`: an event and nothing else (R192). -/
def State.sleep (s : State) (ms : Half) : State := s.emit [.sleep ms]

/-- THE TAKING OF AN EXCEPTION in this hardware: "the appending of one event" (R180, R188), for each diagnostic in order (R187).
Nothing is saved, no mode changes, and control goes to the next step of the same rule. -/
def State.raiseDiags (s : State) (ds : List Diag) : State := s.emit (ds.map .diag)

/-- One micro-step (R114): a `Set` and its `Delay`. -/
def State.microStep (s : State) (l : Line) (b : Bool) : State := (s.setLine l b).delay

/-- Write `TXN` (R28). -/
def State.setTxn (s : State) (p : Phase) : State := { s with txn := p }

/-- `START` (R110). -/
def State.uopStart (s : State) : State := ((s.setTxn .start).microStep .dio false).microStep .clk false

/-- `STOP` (R111). -/
def State.uopStop (s : State) : State :=
  ((((s.setTxn .stop).microStep .dio false).microStep .clk true).microStep .dio true).setTxn .idle

/-- Data slot of one bit (R112): the bit, clock high, clock low. -/
def State.dataSlot (s : State) (b : Bool) : State := ((s.microStep .dio b).microStep .clk true).microStep .clk false

/-- Slot 8, the ACK slot (R112): the clock only. -/
def State.ackSlot (s : State) : State := ((s.microStep .clk false).microStep .clk true).microStep .clk false

/-- `WRITE_BYTE(b)` (R112): bits 0 to 7 in order, then the ACK slot. -/
def State.uopWriteByte (s : State) (b : Byte) : State :=
  ((List.range 8).foldl (fun s k => s.dataSlot (b.getLsbD k)) (s.setTxn .byte)).ackSlot

/-- Append one transaction to the byte log `BL` (R68). -/
def State.logTxn (s : State) (bytes : List Byte) : State := { s with bl := s.bl ++ [bytes] }

/-- A data transaction (R116). -/
def State.dataTransaction (s : State) (bytes : List Byte) : State :=
  ((bytes.foldl State.uopWriteByte s.uopStart).uopStop).logTxn bytes

/-- `COMMAND_SEQUENCE(cmd)` (R113), which "is the data transaction `[c]`" (R116). -/
def State.uopCommandSequence (s : State) (cmd : Byte) : State :=
  ((s.uopStart.uopWriteByte cmd).uopStop).logTxn [cmd]

/-- `return v`: the value goes to the host on the result port (00_scope.md section 5.2). -/
def State.reply (s : State) (r : Reply) : State := { s with replies := s.replies ++ [r] }

/-- `SEGBUF` and `SEGLEN` take the values about to be sent (R29). -/
def State.loadSegs (s : State) (segs : List Byte) : State :=
  { s with segbuf := Vector.ofFn fun i => segs.getD i.val s.segbuf[i], seglen := segs.length }

/-- The segment values in `SEGBUF[0..SEGLEN-1]` (R29). -/
def State.bufferedSegs (s : State) : List Byte := s.segbuf.toList.take s.seglen

/-- Write `WIN` (R29). -/
def State.setWin (s : State) (w : Vector Byte 4) : State := { s with win := w }

/-- Write `FMT` (R29). -/
def State.setFmt (s : State) (w : Vector Byte 4) : State := { s with fmt := w }

/-- Write `BRIGHT` (R24). -/
def State.setBright (s : State) (b : BitVec 3) : State := { s with bright := b }

end Sys2Proof.Machine
end

