-- ==== Sys2Proof/Machine/Flags.lean ====
section
/-! DEFINITION. CORE has no arithmetic flags (10_state.md rule R27); its two status bits are `CONSTRUCTED` and `BUSY`. Here are the
state checks (30_encoding.md rule R84), the handshake of the two ports (20_memory.md rule R60) and the operand latches (R21). -/

namespace Sys2Proof.Machine

/-- Write `CONSTRUCTED` to 1 (R27): nothing clears it. -/
def State.setConstructed (s : State) : State := { s with constructed := true }

/-- The latches after the port has accepted `i`: each latch the packet carries holds its operand; the others are `free` (R21). -/
def latched (i : Instr) (free : Latches) : Latches :=
  match i with
  | .construct clkId dioId => { free with opc := i.opcode, clkId := clkId, dioId := dioId }
  | .brightnessGet => { free with opc := i.opcode }
  | .brightnessSet v => { free with opc := i.opcode, v := v }
  | .write pos segments => { free with opc := i.opcode, pos := pos, segs := segments }
  | .showText colon str => { free with opc := i.opcode, flag := colon, s := str }
  | .setRaw pos data => { free with opc := i.opcode, pos := pos, data := data }
  | .setChar pos ch dot => { free with opc := i.opcode, pos := pos, ch := ch, flag := dot }
  | .scroll delayMs str => { free with opc := i.opcode, delayMs := delayMs, s := str }
  | .encodeDigit d => { free with opc := i.opcode, d := d }
  | .encodeChar c => { free with opc := i.opcode, ch := c }
  | .encodeString str => { free with opc := i.opcode, s := str }
  | .hex value => { free with opc := i.opcode, value := value }
  | .number value => { free with opc := i.opcode, value := value }
  | .start => free
  | .stop => free
  | .writeByte _ => free
  | .commandSequence _ => free
  | .busDataAutoinc => free
  | .busDataFixed => free
  | .busDisplayCtrl _ => free
  | .busAddress _ => free

/-- A port takes the operands of a packet into the latches, "only when `BUSY = 0`" (R21). The spec leaves open whether the latches that
two instances' packets do not carry agree (R21, R196); every instance draws them from one opaque function and counts from 0, so here they
agree at equal counts (DESIGN CHOICE, notes/assumptions/4.md). -/
def State.latch (s : State) (i : Instr) : State :=
  if s.busy then s else { s with x := latched i (Config.freeLatches s.fresh), fresh := s.fresh + 1 }

/-- The state check of the `CTL` port (R60, R84). -/
def ctlStateCheck (op : CtlOp) (s : State) : Option Refusal :=
  if s.busy then some .busy
  else
    match op with
    | .construct => if s.constructed then some .alreadyConstructed else none
    | .brightnessGet | .brightnessSet | .write | .showText | .setRaw | .setChar | .scroll =>
      if s.constructed then none else some .notConstructed

/-- Why the `CTL` port refuses a packet, if it does: the checks of R83, then those of R84 (R187). -/
def ctlRefusal (op : CtlOp) (i : Instr) (s : State) : Option Refusal :=
  match i.illFormed with
  | some c => some (.illFormed c)
  | none => ctlStateCheck op s

/-- The `CTL` port accepts a packet (R60): the operands are latched, `BUSY` is 1, `SEQ` names the operation (R23). -/
def State.accept (s : State) (op : CtlOp) (i : Instr) : State :=
  { s.latch i with busy := true, seq := { Seq.idle with op := some op } }

/-- The end of a `CTL` operation (R60): `BUSY` is 0, `SEQ` and `TXN` are at their values between operations (R23, R28). -/
def State.finish (s : State) : State := { s with busy := false, txn := .idle, seq := Seq.idle }

/-- A `CTL` operation (R60, R85): refused with no effect, or accepted and run to its end. -/
def runCtl (op : CtlOp) (i : Instr) (body : State → State) (s : State) : Host.Outcome State Fault Refusal :=
  match ctlRefusal op i s with
  | some r => .refused r
  | none => .next (body (s.accept op i)).finish

/-- An `ENC` operation (R60, R85, R130): no state check, and it may be issued while `BUSY = 1`. -/
def runEnc (i : Instr) (body : State → State) (s : State) : Host.Outcome State Fault Refusal :=
  match i.illFormed with
  | some c => .refused (.illFormed c)
  | none => .next (body (s.latch i))

end Sys2Proof.Machine
end

