-- ==== Sys2Proof/Machine/Bus.lean ====
section
/-! DEFINITION. The meanings of the micro-operations (40_bus_protocol.md) and of the bus command bytes (30_encoding.md rules R90
to R93), each run on its own. They are internal: no packet on a port reaches them (R80). -/

namespace Sys2Proof.Machine

/-- `START` (R110). -/
def execStart (s : State) : Host.Outcome State Fault Refusal := .next s.uopStart

/-- `STOP` (R111). -/
def execStop (s : State) : Host.Outcome State Fault Refusal := .next s.uopStop

/-- `WRITE_BYTE(b)` (R112). -/
def execWriteByte (b : Byte) (s : State) : Host.Outcome State Fault Refusal := .next (s.uopWriteByte b)

/-- `COMMAND_SEQUENCE(cmd)` (R113). -/
def execCommandSequence (cmd : Byte) (s : State) : Host.Outcome State Fault Refusal := .next (s.uopCommandSequence cmd)

/-- The byte 0x40, "sent alone in a command sequence" (R90). -/
def execBusDataAutoinc (s : State) : Host.Outcome State Fault Refusal := .next (s.uopCommandSequence Config.cmdDataAuto)

/-- The byte 0x44, "sent alone in a command sequence" (R91). -/
def execBusDataFixed (s : State) : Host.Outcome State Fault Refusal := .next (s.uopCommandSequence Config.cmdDataFixed)

/-- The byte `0b1000_1bbb`, "sent alone in a command sequence" (R92). -/
def execBusDisplayCtrl (b : BitVec 3) (s : State) : Host.Outcome State Fault Refusal :=
  .next (s.uopCommandSequence (displayByte b))

/-- The address byte `0b1100_0ppp`, "the first byte of a data transaction" (R93), here one with no data bytes
(notes/assumptions/2.md). -/
def execBusAddress (p : BitVec 3) (s : State) : Host.Outcome State Fault Refusal :=
  .next (s.dataTransaction [addressByte (p.zeroExtend 8)])

end Sys2Proof.Machine
end

