-- ==== Sys2Proof/Machine/Controller.lean ====
section
/-! DEFINITION. The meanings of the eight operations on the `CTL` port (42_display_controller.md). A body is the rule's pseudocode;
its operands are read from the latches (R21), since the delegating operations call a body with values of their own. -/

namespace Sys2Proof.Machine

/-- The display-control command sequence, built from `BRIGHT` at the moment it is sent (R92). -/
def State.sendDisplayControl (s : State) : State := s.uopCommandSequence (displayByte s.bright)

/-- `CONSTRUCT` (R150). -/
def State.constructBody (s : State) : State :=
  (((((({ s with clkId := s.x.clkId, dioId := s.x.dioId }.cfgLine .clk).cfgLine .dio).setLine .clk false).setLine .dio
    false).setBright Config.defaultBrightness).uopCommandSequence Config.cmdDataAuto).sendDisplayControl.setConstructed

/-- `BRIGHTNESS_GET` (R151). -/
def State.brightnessGetBody (s : State) : State := s.reply (.byte (s.bright.zeroExtend 8))

/-- `BRIGHTNESS_SET(v)` (R152): the diagnostic, if any, before the store and before any line write (R187). -/
def State.brightnessSetBody (s : State) (v : Byte) : State :=
  (((s.raiseDiags (if 7 < v.toNat then [.brightnessRange v] else [])).setBright (maskBright v)).uopCommandSequence
    Config.cmdDataAuto).sendDisplayControl

/-- `WRITE(segments, pos)` (R153). The first branch is `raise PositionRange(pos)`, the one early exit of CORE (R182). -/
def State.writeBody (s : State) (segments : List Byte) (pos : Byte) : State :=
  if positionValid pos then
    let s := (s.loadSegs segments).uopCommandSequence Config.cmdDataAuto
    (s.dataTransaction (addressByte pos :: s.bufferedSegs)).sendDisplayControl
  else s.raiseDiags [.positionRange pos]

/-- `SHOW(s, colon)` (R154): delegates to `WRITE` at position 0. -/
def State.showBody (s : State) (str : List Byte) (colon : Bool) : State :=
  (s.raiseDiags (encodeString str).2).writeBody (withColon colon (encodeString str).1) 0

/-- `SET_RAW(pos, data)` (R155): no position check. -/
def State.setRawBody (s : State) (pos data : Byte) : State :=
  ((s.uopCommandSequence Config.cmdDataFixed).dataTransaction [addressByte pos, data]).sendDisplayControl

/-- `SET_CHAR(pos, ch, dot)` (R156): delegates to `SET_RAW`. -/
def State.setCharBody (s : State) (pos ch : Byte) (dot : Bool) : State :=
  (s.raiseDiags (encodeChar ch).2).setRawBody pos (withDot dot (encodeChar ch).1)

/-- One round of `SCROLL` (R157): sleep, shift the window, show it without colon. -/
def State.scrollRound (delayMs : Half) (s : State) (c : Byte) : State :=
  let s := s.sleep delayMs
  let s := s.setWin (shiftWindow s.win c)
  s.showBody s.win.toList false

/-- `SCROLL(s, delay_ms)` (R157): the window starts as four spaces; one round for each character, in order. -/
def State.scrollBody (s : State) (str : List Byte) (delayMs : Half) : State :=
  str.foldl (State.scrollRound delayMs) (s.setWin blankWindow)

/-- `CONSTRUCT(clk_id, dio_id)` (R150). -/
def execConstruct (clkId dioId : Byte) (s : State) : Host.Outcome State Fault Refusal :=
  runCtl .construct (.construct clkId dioId) State.constructBody s

/-- `BRIGHTNESS_GET()` (R151). -/
def execBrightnessGet (s : State) : Host.Outcome State Fault Refusal :=
  runCtl .brightnessGet .brightnessGet State.brightnessGetBody s

/-- `BRIGHTNESS_SET(v)` (R152). -/
def execBrightnessSet (v : Byte) (s : State) : Host.Outcome State Fault Refusal :=
  runCtl .brightnessSet (.brightnessSet v) (fun s => s.brightnessSetBody s.x.v) s

/-- `WRITE(segments, pos)` (R153). -/
def execWrite (pos : Byte) (segments : List Byte) (s : State) : Host.Outcome State Fault Refusal :=
  runCtl .write (.write pos segments) (fun s => s.writeBody s.x.segs s.x.pos) s

/-- `SHOW(s, colon)` (R154). -/
def execShowText (colon : Bool) (str : List Byte) (s : State) : Host.Outcome State Fault Refusal :=
  runCtl .showText (.showText colon str) (fun s => s.showBody s.x.s s.x.flag) s

/-- `SET_RAW(pos, data)` (R155). -/
def execSetRaw (pos data : Byte) (s : State) : Host.Outcome State Fault Refusal :=
  runCtl .setRaw (.setRaw pos data) (fun s => s.setRawBody s.x.pos s.x.data) s

/-- `SET_CHAR(pos, ch, dot)` (R156). -/
def execSetChar (pos ch : Byte) (dot : Bool) (s : State) : Host.Outcome State Fault Refusal :=
  runCtl .setChar (.setChar pos ch dot) (fun s => s.setCharBody s.x.pos s.x.ch s.x.flag) s

/-- `SCROLL(s, delay_ms)` (R157). -/
def execScroll (delayMs : Half) (str : List Byte) (s : State) : Host.Outcome State Fault Refusal :=
  runCtl .scroll (.scroll delayMs str) (fun s => s.scrollBody s.x.s s.x.delayMs) s

end Sys2Proof.Machine
end

