-- ==== Sys2Proof/Machine/Encoder.lean ====
section
/-! DEFINITION. The meanings of the five encoder operations on the `ENC` port (41_segment_encoder.md). The pair (value,
diagnostics) is the response; nothing is appended to `TR` (R130). -/

namespace Sys2Proof.Machine

/-- `ENCODE_DIGIT(d)` (R132). -/
def execEncodeDigit (d : Byte) (s : State) : Host.Outcome State Fault Refusal :=
  runEnc (.encodeDigit d) (fun s => s.reply (.seg (encodeDigit d).1 (encodeDigit d).2)) s

/-- `ENCODE_CHAR(c)` (R133). -/
def execEncodeChar (c : Byte) (s : State) : Host.Outcome State Fault Refusal :=
  runEnc (.encodeChar c) (fun s => s.reply (.seg (encodeChar c).1 (encodeChar c).2)) s

/-- `ENCODE_STRING(s)` (R134). -/
def execEncodeString (str : List Byte) (s : State) : Host.Outcome State Fault Refusal :=
  runEnc (.encodeString str) (fun s => s.reply (.segs (encodeString str).1 (encodeString str).2)) s

/-- The common end of `HEX` and `NUMBER` (R135, R136): `FMT` is encoded as a string. -/
def State.replyFmt (s : State) : State :=
  s.reply (.segs (encodeString s.fmt.toList).1 (encodeString s.fmt.toList).2)

/-- `HEX(value)` (R135). -/
def execHex (value : Half) (s : State) : Host.Outcome State Fault Refusal :=
  runEnc (.hex value) (fun s => (s.setFmt (hexChars value)).replyFmt) s

/-- `NUMBER(value)` (R136); above 9999 it is refused (`WF_NUMBER`). -/
def execNumber (value : Half) (s : State) : Host.Outcome State Fault Refusal :=
  runEnc (.number value) (fun s => (s.setFmt (numberChars value)).replyFmt) s

end Sys2Proof.Machine
end

