-- ==== Sys2Proof/Machine/Dispatch.lean ====
section
/-! DEFINITION. One arm for each constructor of Instr. -/

namespace Sys2Proof.Machine

def exec (i : Instr) (s : State) : Host.Outcome State Fault Refusal :=
  match i with
  -- the CTL port (42_display_controller.md)
  | .construct clkId dioId => Sys2Proof.Machine.execConstruct clkId dioId s
  | .brightnessGet => Sys2Proof.Machine.execBrightnessGet s
  | .brightnessSet v => Sys2Proof.Machine.execBrightnessSet v s
  | .write pos segments => Sys2Proof.Machine.execWrite pos segments s
  | .showText colon str => Sys2Proof.Machine.execShowText colon str s
  | .setRaw pos data => Sys2Proof.Machine.execSetRaw pos data s
  | .setChar pos ch dot => Sys2Proof.Machine.execSetChar pos ch dot s
  | .scroll delayMs str => Sys2Proof.Machine.execScroll delayMs str s
  -- the ENC port (41_segment_encoder.md)
  | .encodeDigit d => Sys2Proof.Machine.execEncodeDigit d s
  | .encodeChar c => Sys2Proof.Machine.execEncodeChar c s
  | .encodeString str => Sys2Proof.Machine.execEncodeString str s
  | .hex value => Sys2Proof.Machine.execHex value s
  | .number value => Sys2Proof.Machine.execNumber value s
  -- the micro-operations (40_bus_protocol.md)
  | .start => Sys2Proof.Machine.execStart s
  | .stop => Sys2Proof.Machine.execStop s
  | .writeByte b => Sys2Proof.Machine.execWriteByte b s
  | .commandSequence cmd => Sys2Proof.Machine.execCommandSequence cmd s
  -- the bus command bytes (30_encoding.md section 3)
  | .busDataAutoinc => Sys2Proof.Machine.execBusDataAutoinc s
  | .busDataFixed => Sys2Proof.Machine.execBusDataFixed s
  | .busDisplayCtrl b => Sys2Proof.Machine.execBusDisplayCtrl b s
  | .busAddress p => Sys2Proof.Machine.execBusAddress p s

end Sys2Proof.Machine
end

