-- ==== Sys2Proof/Machine/Port.lean ====
section
/-! DEFINITION. The issue of the host's next packet (20_memory.md rule R60, 30_encoding.md rules R81 to R85). -/

namespace Sys2Proof.Machine

/-- The packet at the head of `inbox` is issued: decoded (R81, R82) and run, or refused with the name of the failed check (R85). -/
def runPacket (p : Packet) (s : State) : Host.Outcome State Fault Refusal :=
  match decode p with
  | .error c => .refused (.illFormed c)
  | .ok i => exec i s

/-- With no packet to issue, CORE waits, idle (R34, R197). -/
def issueNext (s : State) : Host.Outcome State Fault Refusal :=
  match s.inbox with
  | [] => .next s
  | p :: rest => runPacket p { s with inbox := rest }

/-- The host's program: the packets it will issue, in order, after those it still has to issue (R100). -/
def State.issue (s : State) (packets : List Packet) : State := { s with inbox := s.inbox ++ packets }

/-- The packet `p` as the host's next one. -/
def State.issueFirst (s : State) (p : Packet) : State := { s with inbox := p :: s.inbox }

end Sys2Proof.Machine
end

