-- ==== Sys2Proof/Machine/Step.lean ====
section
/-! DEFINITION. One step: the host's next packet, run to its end (20_memory.md rule R60). -/

namespace Sys2Proof.Machine

/-- One step (R60): three outcomes. -/
def step (s : State) : Host.Outcome State Fault Refusal := issueNext s

/-- `s` with the instruction whose bits are `w` as the packet the next step issues (notes/assumptions/1.md). -/
def State.withFetchWord (s : State) (nbits w : Nat) : State := s.issueFirst (tablePacket nbits w)

end Sys2Proof.Machine
end

