-- ==== Sys2Proof/Machine/Instances.lean ====
section
/-! DEFINITION. Several instances of CORE (60_exceptions.md rule R196): each is a State of its own, they share only the constant ROM,
and a configuration in which two have a line identifier in common is refused (notes/assumptions/14.md). -/

namespace Sys2Proof.Machine

/-- No line identifier is bound by both instances (R196, R26); an instance that is not constructed has bound none. -/
def disjointLines (a b : State) : Bool :=
  !(a.constructed && b.constructed) ||
    (a.clkId != b.clkId && a.clkId != b.dioId && a.dioId != b.clkId && a.dioId != b.dioId)

/-- A configuration of several instances that the spec gives a meaning (R196). -/
abbrev validConfiguration (instances : List State) : Prop := instances.Pairwise fun a b => disjointLines a b = true

/-- Several instances after power-on: none has bound a line yet (R34). -/
def powerOnInstances (n : Nat) : List State := List.replicate n State.reset

/-- One step of several instances: instance `k` runs its host's next packet, the others stay as they are. A configuration that is not
valid has no step, and neither has a packet that would make it so: both are refused (R196, 93_implementation_defined.md U8). -/
def stepInstance (instances : List State) (k : Fin instances.length) : Host.Outcome (List State) Fault Refusal :=
  if validConfiguration instances then
    match step instances[k] with
    | .next t =>
      if validConfiguration (instances.set k.val t) then .next (instances.set k.val t) else .refused .sharedLine
    | .fault f => .fault f
    | .refused r => .refused r
  else .refused .sharedLine

end Sys2Proof.Machine
end

