-- ==== Sys2Proof/Machine/Receiver.lean ====
section
/-! DEFINITION. The reference receiver (20_memory.md rule R69): a reading of the byte log as what the device holds. It is not part
of CORE and no operation of CORE depends on it. -/

namespace Sys2Proof.Machine

/-- The addressing mode of the device (R32, R53). -/
inductive DeviceMode where
  | auto
  | fixed
deriving DecidableEq, Repr

/-- What the byte log says the device holds; `none` is "unknown" (R69: the initial values are unknown). -/
structure Device where
  mode : Option DeviceMode
  /-- `mem[0..5]` -/
  mem : Vector (Option Byte) 6
  /-- the display-control setting: brightness, with the display on (CORE never sends "off", R92) -/
  ctrl : Option (BitVec 3)
deriving DecidableEq, Repr

/-- The device before any transaction (R69). -/
def Device.unknown : Device := { mode := none, mem := #v[none, none, none, none, none, none], ctrl := none }

/-- `MemWrite(DEV, a, 1, v)`. -/
def Device.memWrite (d : Device) (a : Fin 6) (v : Byte) : Device := { d with mem := d.mem.set a (some v) }

/-- The data bytes of one auto-increment transaction, the first for position `a`; none where R69 says "stop, device-defined". -/
def Device.autoWrite (d : Device) (a : Nat) : List Byte → Option Device
  | [] => some d
  | v :: rest => if h : a < 6 then (d.memWrite ⟨a, h⟩ v).autoWrite (a + 1) rest else none

/-- The one data byte of a fixed-address transaction; none where R69 stops. -/
def Device.fixedWrite (d : Device) (a : Nat) : List Byte → Option Device
  | [v] => if h : a < 6 then some (d.memWrite ⟨a, h⟩ v) else none
  | _ => none

/-- One transaction (R69). With the mode unknown an address transaction stops (notes/assumptions/9.md). An auto-increment data
transaction keeps `ctrl`, as in the pseudocode of R69; 93_implementation_defined.md U5 treats the display-control setting as any value
from there to the next display-control byte (DESIGN CHOICE between the two, notes/assumptions/9.md). An address byte 0xC0 to 0xC5 is
taken as position 0 to 5 whichever `pos` of SET_RAW or SET_CHAR it came from (`pos` and `pos` with bit 6 or 7 changed give the same
byte), as in the pseudocode of R69; U3 has the receiver stop at every `pos` outside 0..5 (DESIGN CHOICE between the two, the same entry). -/
def Device.receive (d : Device) (t : List Byte) : Option Device :=
  if t = [0x40] then some { d with mode := some .auto }
  else if t = [0x44] then some { d with mode := some .fixed }
  else
    match t with
    | [] => none
    | c :: rest =>
      if rest = [] ∧ c.extractLsb' 3 5 = 0b10001 then some { d with ctrl := some (c.extractLsb' 0 3) }
      else if c.extractLsb' 3 5 = 0b11000 ∧ (c.extractLsb' 0 3).toNat ≤ Config.devPosMax then
        match d.mode with
        | some .auto => d.autoWrite (c.extractLsb' 0 3).toNat rest
        | some .fixed => d.fixedWrite (c.extractLsb' 0 3).toNat rest
        | none => none
      else none

/-- The whole byte log, left to right; none once a transaction has stopped the receiver. -/
def Device.receiveAll (d : Device) : List (List Byte) → Option Device
  | [] => some d
  | t :: rest => (d.receive t).bind fun d => d.receiveAll rest

end Sys2Proof.Machine
end

