-- ==== Sys2Proof/Machine/Sequencer.lean ====
section
/-! DEFINITION. The small-step reading of the `CTL` operations (10_state.md rule R23): an accepted operation advances by one
micro-step (R114) at a time, and `SEQ` says which one is next. The machine's step is the big step, which R23 calls normative; this
file gives the same operations a second, independent definition, driven by `SEQ`, `TXN`, the latches, the buffers and `BRIGHT`. -/

namespace Sys2Proof.Machine

/-- The transactions of the operation in progress (of the current SHOW of a SCROLL), as the bytes of each (R150 to R157). -/
def State.roundTxns (s : State) : List (List Byte) :=
  match s.seq.op with
  | none => []
  | some .brightnessGet => []
  | some .construct => [[Config.cmdDataAuto], [displayByte s.bright]]
  | some .brightnessSet => [[Config.cmdDataAuto], [displayByte s.bright]]
  | some .write => [[Config.cmdDataAuto], addressByte s.x.pos :: s.bufferedSegs, [displayByte s.bright]]
  | some .showText => [[Config.cmdDataAuto], addressByte 0 :: s.bufferedSegs, [displayByte s.bright]]
  | some .scroll => [[Config.cmdDataAuto], addressByte 0 :: s.bufferedSegs, [displayByte s.bright]]
  | some .setRaw => [[Config.cmdDataFixed], [addressByte s.x.pos, s.x.data], [displayByte s.bright]]
  | some .setChar =>
    [[Config.cmdDataFixed], [addressByte s.x.pos, withDot s.x.flag (encodeChar s.x.ch).1], [displayByte s.bright]]

/-- The bytes of the current transaction. -/
def State.currentTxn (s : State) : List Byte := s.roundTxns.getD s.seq.txn []

/-- The line write of the micro-step at `SEQ` (R110, R111, R112); none when no micro-step is next. -/
def State.nextWrite (s : State) : Option (Line × Bool) :=
  match s.txn with
  | .idle => none
  | .start =>
    match s.seq.sub with
    | 0 => some (.dio, false)
    | _ => some (.clk, false)
  | .byte =>
    match s.seq.sub with
    | 0 => if s.seq.slot < 8 then some (.dio, (s.currentTxn.getD s.seq.byte 0).getLsbD s.seq.slot) else some (.clk, false)
    | 1 => some (.clk, true)
    | _ => some (.clk, false)
  | .stop =>
    match s.seq.sub with
    | 0 => some (.dio, false)
    | 1 => some (.clk, true)
    | _ => some (.dio, true)

/-- To the first micro-step of transaction `k` of the round. R23 gives `byte` and `slot` a meaning in phase `BYTE` only; in `START` the
model sets both to 0 (DESIGN CHOICE, notes/assumptions/10.md). -/
def State.toTxn (s : State) (k : Nat) : State :=
  { s with txn := .start, seq := { s.seq with txn := k, byte := 0, slot := 0, sub := 0 } }

/-- What an operation does before its first micro-step, or, for SCROLL, before the first micro-step of round `SEQ.iter`;
an operation with no micro-step to make ends here. R23 gives no position of `SEQ` to what is no micro-step (`Sleep`, `Diag`, the `Cfg` and
`Set` of the line setup, the writes of registers and buffers): all of it happens here at once, at acceptance or, for a later round of
SCROLL, with the last micro-step before it (DESIGN CHOICE, notes/assumptions/10.md). -/
def State.enterRound (s : State) : State :=
  match s.seq.op with
  | none => s
  | some .construct =>
    (((((({ s with clkId := s.x.clkId, dioId := s.x.dioId }.cfgLine .clk).cfgLine .dio).setLine .clk false).setLine .dio
      false).setBright Config.defaultBrightness)).toTxn 0
  | some .brightnessGet => (s.reply (.byte (s.bright.zeroExtend 8))).finish
  | some .brightnessSet =>
    ((s.raiseDiags (if 7 < s.x.v.toNat then [.brightnessRange s.x.v] else [])).setBright (maskBright s.x.v)).toTxn 0
  | some .write =>
    if positionValid s.x.pos then (s.loadSegs s.x.segs).toTxn 0
    else (s.raiseDiags [.positionRange s.x.pos]).finish
  | some .showText =>
    ((s.raiseDiags (encodeString s.x.s).2).loadSegs (withColon s.x.flag (encodeString s.x.s).1)).toTxn 0
  | some .setRaw => s.toTxn 0
  | some .setChar => (s.raiseDiags (encodeChar s.x.ch).2).toTxn 0
  | some .scroll =>
    match s.x.s[s.seq.iter]? with
    | none => s.finish
    | some c =>
      let s := s.sleep s.x.delayMs
      let s := s.setWin (shiftWindow s.win c)
      let s := s.raiseDiags (encodeString s.win.toList).2
      (s.loadSegs (encodeString s.win.toList).1).toTxn 0

/-- After the last transaction of a round: SCROLL goes to its next round, the others end, both with the last micro-step of the
transaction's STOP (DESIGN CHOICE, notes/assumptions/10.md). -/
def State.leaveRound (s : State) : State :=
  match s.seq.op with
  | none => s
  | some .construct => s.setConstructed.finish
  | some .scroll => { s with seq := { s.seq with iter := s.seq.iter + 1 } }.enterRound
  | some .brightnessGet | some .brightnessSet | some .write | some .showText | some .setRaw | some .setChar => s.finish

/-- After the last micro-step of a transaction (R23): the byte log, then the next transaction, or the end of the round. R68, R113 and
R116 say that the transaction appends its entry to `BL` but not when within it; here it is after the last micro-step of `STOP`
(DESIGN CHOICE, notes/assumptions/10.md). -/
def State.leaveTxn (s : State) : State :=
  let t := (s.setTxn .idle).logTxn s.currentTxn
  if s.seq.txn + 1 < s.roundTxns.length then t.toTxn (s.seq.txn + 1) else t.leaveRound

/-- `SEQ` after one micro-step (R23). R23 gives `byte` and `slot` a meaning in phase `BYTE` only; in `STOP`, as in `START`, the model holds
both at 0 (DESIGN CHOICE, notes/assumptions/10.md). -/
def State.advanceSeq (s : State) : State :=
  match s.txn with
  | .idle => s
  | .start =>
    if s.seq.sub < 1 then { s with seq := { s.seq with sub := s.seq.sub + 1 } }
    else { s with txn := .byte, seq := { s.seq with byte := 0, slot := 0, sub := 0 } }
  | .byte =>
    if s.seq.sub < 2 then { s with seq := { s.seq with sub := s.seq.sub + 1 } }
    else if s.seq.slot < 8 then { s with seq := { s.seq with slot := s.seq.slot + 1, sub := 0 } }
    else if s.seq.byte + 1 < s.currentTxn.length then
      { s with seq := { s.seq with byte := s.seq.byte + 1, slot := 0, sub := 0 } }
    else { s with txn := .stop, seq := { s.seq with byte := 0, slot := 0, sub := 0 } }
  | .stop =>
    if s.seq.sub < 2 then { s with seq := { s.seq with sub := s.seq.sub + 1 } }
    else s.leaveTxn

/-- One small step: the micro-step at `SEQ`, and `SEQ` advances; nothing between operations. -/
def State.tick (s : State) : State :=
  match s.nextWrite with
  | none => s
  | some (l, b) => (s.microStep l b).advanceSeq

/-- `n` small steps. -/
def State.ticks : Nat → State → State
  | 0, s => s
  | n + 1, s => State.ticks n s.tick

/-- The acceptance of a `CTL` packet in the small-step reading: up to the first micro-step, with every event before it (DESIGN CHOICE,
notes/assumptions/10.md). -/
def beginCtl (op : CtlOp) (i : Instr) (s : State) : Host.Outcome State Fault Refusal :=
  match ctlRefusal op i s with
  | some r => .refused r
  | none =>
    match op with
    | .scroll => .next ((s.accept op i).setWin blankWindow).enterRound
    | .construct | .brightnessGet | .brightnessSet | .write | .showText | .setRaw | .setChar =>
      .next (s.accept op i).enterRound

end Sys2Proof.Machine
end

