-- ==== Sys2Proof/Safety.lean ====
section
/-! DEFINITION. The terms the claims use: the waveforms as lists of events (40_bus_protocol.md), event counts (R159), readings of a
trace, and the invariants of CORE between operations. -/

namespace Sys2Proof.Safety

open Sys2Proof.Machine

/-- The events of one micro-step (R114). -/
def micro (l : Line) (b : Bool) : List Event := [.set l b, .delay]

/-- The events of `START` (R110): `D0 . C0 .` -/
def startWave : List Event := micro .dio false ++ micro .clk false

/-- The events of `STOP` (R111): `D0 . C1 . D1 .` -/
def stopWave : List Event := micro .dio false ++ micro .clk true ++ micro .dio true

/-- The events of data slot `k` of a byte (R112). -/
def slotWave (b : Byte) (k : Nat) : List Event := micro .dio (b.getLsbD k) ++ micro .clk true ++ micro .clk false

/-- The events of the ACK slot (R112): `C0 . C1 . C0 .` -/
def ackWave : List Event := micro .clk false ++ micro .clk true ++ micro .clk false

/-- The events of `WRITE_BYTE(b)` (R112). -/
def byteWave (b : Byte) : List Event := (List.range 8).flatMap (slotWave b) ++ ackWave

/-- The events of the data transaction with these bytes (R116). -/
def txnWave (bytes : List Byte) : List Event := startWave ++ bytes.flatMap byteWave ++ stopWave

/-- The events of a byte log (R68). -/
def logWave (bl : List (List Byte)) : List Event := bl.flatMap txnWave

/-- The display-control byte (R92), as the claims spell it. -/
def dispByte (bright : BitVec 3) : Byte := 0x80 ||| 0x08 ||| bright.zeroExtend 8

/-- The transactions of an auto-increment write (R153). -/
def autoTxns (pos : Byte) (segs : List Byte) (bright : BitVec 3) : List (List Byte) :=
  [[0x40], (0xC0 ||| pos) :: segs, [dispByte bright]]

/-- The transactions of a fixed-address write (R155). -/
def fixedTxns (pos data : Byte) (bright : BitVec 3) : List (List Byte) :=
  [[0x44], [0xC0 ||| pos, data], [dispByte bright]]

/-- The transactions that tell the device the brightness (R150, R152). -/
def brightTxns (bright : BitVec 3) : List (List Byte) := [[0x40], [dispByte bright]]

/-- The events of one round of `SCROLL` that shows `win` (R157). -/
def roundWave (delayMs : Half) (win : Vector Byte 4) (bright : BitVec 3) : List Event :=
  .sleep delayMs :: (encodeString win.toList).2.map .diag ++ logWave (autoTxns 0 (encodeString win.toList).1 bright)

/-- The windows `SCROLL` shows, one for each character, from the window `win` on (R157). -/
def windows (win : Vector Byte 4) : List Byte → List (Vector Byte 4)
  | [] => []
  | c :: rest => shiftWindow win c :: windows (shiftWindow win c) rest

/-- A line event: a `Set` or a `Delay` (R68). -/
def isLineEvent : Event → Bool
  | .set _ _ => true
  | .delay => true
  | .cfg _ => false
  | .sleep _ => false
  | .diag _ => false

/-- Kinds of events, for the counts of R159. -/
def isCfg : Event → Bool
  | .cfg _ => true
  | .set _ _ | .delay | .sleep _ | .diag _ => false
def isSet : Event → Bool
  | .set _ _ => true
  | .cfg _ | .delay | .sleep _ | .diag _ => false
def isDelay : Event → Bool
  | .delay => true
  | .cfg _ | .set _ _ | .sleep _ | .diag _ => false
def isSleep : Event → Bool
  | .sleep _ => true
  | .cfg _ | .set _ _ | .delay | .diag _ => false
def isDiag : Event → Bool
  | .diag _ => true
  | .cfg _ | .set _ _ | .delay | .sleep _ => false

/-- The number of events of each kind: `Cfg`, `Set`, `Delay`, `Sleep`, `Diag` (the columns of R159). -/
def counts (es : List Event) : Nat × Nat × Nat × Nat × Nat :=
  (es.countP isCfg, es.countP isSet, es.countP isDelay, es.countP isSleep, es.countP isDiag)

/-- Every `Set` of the list is followed at once by a `Delay`, and every `Delay` follows a `Set` (R114). -/
def microStepsOnly : List Event → Bool
  | [] => true
  | .set _ _ :: .delay :: rest => microStepsOnly rest
  | _ => false

/-- How often `DIO` changes level while `CLK` is 1, from the levels `clk`, `dio` on (R117). -/
def dioChangesUnderHighClk (clk dio : Bool) : List Event → Nat
  | [] => 0
  | .set .dio b :: rest => (if clk && b != dio then 1 else 0) + dioChangesUnderHighClk clk b rest
  | .set .clk b :: rest => dioChangesUnderHighClk b dio rest
  | .cfg _ :: rest => dioChangesUnderHighClk clk dio rest
  | .delay :: rest => dioChangesUnderHighClk clk dio rest
  | .sleep _ :: rest => dioChangesUnderHighClk clk dio rest
  | .diag _ :: rest => dioChangesUnderHighClk clk dio rest

/-- The line levels `(CLK, DIO)` after the events, from the levels given (R25). -/
def levelsAfter (clk dio : Bool) : List Event → Bool × Bool
  | [] => (clk, dio)
  | .set .dio b :: rest => levelsAfter clk b rest
  | .set .clk b :: rest => levelsAfter b dio rest
  | .cfg _ :: rest => levelsAfter clk dio rest
  | .delay :: rest => levelsAfter clk dio rest
  | .sleep _ :: rest => levelsAfter clk dio rest
  | .diag _ :: rest => levelsAfter clk dio rest

/-- The level of `DIO` at each rising edge of `CLK`, from the levels given: what is delivered on the edges (R119). -/
def risingEdges (clk dio : Bool) : List Event → List Bool
  | [] => []
  | .set .dio b :: rest => risingEdges clk b rest
  | .set .clk b :: rest => if b && !clk then dio :: risingEdges b dio rest else risingEdges b dio rest
  | .cfg _ :: rest => risingEdges clk dio rest
  | .delay :: rest => risingEdges clk dio rest
  | .sleep _ :: rest => risingEdges clk dio rest
  | .diag _ :: rest => risingEdges clk dio rest

/-- The least time the delays of a trace take, in microseconds, and its sleeps, in milliseconds (R192, R235). -/
def delayMicroseconds (es : List Event) : Nat := es.countP isDelay * Config.delayUnitUs
def sleepMilliseconds : List Event → Nat
  | [] => 0
  | .sleep ms :: rest => ms.toNat + sleepMilliseconds rest
  | .cfg _ :: rest => sleepMilliseconds rest
  | .set _ _ :: rest => sleepMilliseconds rest
  | .delay :: rest => sleepMilliseconds rest
  | .diag _ :: rest => sleepMilliseconds rest

/-- The instructions a host can issue (R80): those of the groups CTL and ENC. -/
def hostInstr (i : Instr) : Prop := i.source = .ctl ∨ i.source = .enc

/-- Every packet the host still has to issue is for a port (R80). -/
def hostInbox (s : State) : Prop := ∀ p ∈ s.inbox, p.fromHost = true

/-- CORE between operations (R23, R27, R28). -/
def atRest (s : State) : Prop := s.busy = false ∧ s.txn = .idle ∧ s.seq = Seq.idle

/-- Ready for an operation of the `CTL` port other than `CONSTRUCT` (R84). -/
def ready (s : State) : Prop := atRest s ∧ s.constructed = true

/-- `s` with these operand latches. The statements about an operation say that it ends so for SOME latches: what the latches hold is a
statement of its own (R21), and those a packet does not carry are free values (notes/assumptions/4.md). -/
def relatched (x : Latches) (n : Nat) (s : State) : State := { s with x := x, fresh := n }

/-- `i` on the `ENC` port answers `r`: nothing else of the state changes but the latches, as the port takes its operands (R130). -/
def answers (i : Instr) (s : State) (r : Reply) : Prop :=
  ∃ x n, exec i s = .next { relatched x n s with replies := s.replies ++ [r] }

/-- The operation an instruction of the `CTL` group is (R80). -/
def ctlOp : Instr → Option CtlOp
  | .construct _ _ => some .construct
  | .brightnessGet => some .brightnessGet
  | .brightnessSet _ => some .brightnessSet
  | .write _ _ => some .write
  | .showText _ _ => some .showText
  | .setRaw _ _ => some .setRaw
  | .setChar _ _ _ => some .setChar
  | .scroll _ _ => some .scroll
  | .encodeDigit _ => none
  | .encodeChar _ => none
  | .encodeString _ => none
  | .hex _ => none
  | .number _ => none
  | .start => none
  | .stop => none
  | .writeByte _ => none
  | .commandSequence _ => none
  | .busDataAutoinc => none
  | .busDataFixed => none
  | .busDisplayCtrl _ => none
  | .busAddress _ => none

/-- The invariant of CORE between operations: it is at rest; the lines and the byte log say whether it has been constructed. -/
structure Inv (s : State) : Prop where
  /-- the host issues packets on the two ports only (R80) -/
  host : hostInbox s
  /-- no operation is in progress (R23, R27, R28) -/
  rest : atRest s
  /-- R29 -/
  seglen : s.seglen ≤ 6
  /-- before construction: nothing has happened on the lines (R34) -/
  before : s.constructed = false → s.clkDir = .unconfigured ∧ s.dioDir = .unconfigured ∧ s.tr = [] ∧ s.bl = []
  /-- after construction: both lines are outputs at 1 (R25), the identifiers differ (R26) -/
  lines : s.constructed = true → s.clkDir = .out ∧ s.dioDir = .out ∧ s.clk = true ∧ s.dio = true ∧ s.clkId ≠ s.dioId
  /-- after construction: the last transaction told the device the present `BRIGHT`, and "on" (R160) -/
  told : s.constructed = true → s.bl.getLast? = some [dispByte s.bright]

/-- R68: after construction the line events of `TR` are the two `Set` events of the line setup and then the waveform of `BL`. -/
def wireAgrees (s : State) : Prop :=
  s.tr.filter isLineEvent =
    (if s.constructed then [.set .clk false, .set .dio false] else []) ++ logWave s.bl

/-- A transaction CORE can send (R96, R97): a data command 0x40 or 0x44, a display-control byte with the display on, or an address
byte and at most 6 data bytes. -/
def sendable (t : List Byte) : Prop :=
  t = [0x40] ∨ t = [0x44] ∨ (∃ b : BitVec 3, t = [dispByte b]) ∨
    ∃ a rest, t = a :: rest ∧ 0xC0 ≤ a.toNat ∧ rest.length ≤ 6

end Sys2Proof.Safety
end

