-- ==== Sys2Proof/Certificates/Slice0/Obligations.lean ====
section
/-! DEFINITION. The statements for the provers. Each docstring names the rule it formalises; OBLIGATIONS.json says the rest. -/

open Sys2Proof Sys2Proof.Machine Sys2Proof.Safety

/-! ## Packets -/

/-- Decode and encode agree on every well-formed instruction (30_encoding.md R81, R82). -/
def Obligations.DecodeOfEncodeIsTheInstruction : Prop :=
  ∀ i : Instr, i.wellFormed = true → decode (encode i) = .ok i

/-- A packet that decodes is the packet of what it decodes to: no two packets of a source mean the same (R81, R82). -/
def Obligations.PacketDecodesToItsOwnInstruction : Prop :=
  ∀ (p : Packet) (i : Instr), decode p = .ok i → encode i = p

/-- Words of the table, written out from R82 and R90 to R93. -/
def Obligations.TableWordsDecode : Prop :=
  decodeTableWord 24 0x131200 = some (.construct 0x12 0x13) ∧
  decodeTableWord 32 0x3F01FF03 = some (.write 0xFF [0x3F]) ∧
  decodeTableWord 64 0x3433323100040104 = some (.showText true [0x31, 0x32, 0x33, 0x34]) ∧
  decodeTableWord 56 0x42410002000A07 = some (.scroll 10 [0x41, 0x42]) ∧
  decodeTableWord 24 0x002A13 = some (.hex 0x2A) ∧
  decodeTableWord 16 0x4022 = some (.writeByte 0x40) ∧
  decodeTableWord 8 0x8D = some (.busDisplayCtrl 5) ∧
  decodeTableWord 8 0xC4 = some (.busAddress 4)

/-- `WF_OPCODE` (R83): the opcodes of each port. -/
def Obligations.OnlyThePortsOpcodesAreAccepted : Prop :=
  ∀ (op : Byte) (rest : List Byte),
    (decode { source := .ctl, bytes := op :: rest } = .error .opcode ↔ 0x07 < op.toNat) ∧
    (decode { source := .enc, bytes := op :: rest } = .error .opcode ↔ op.toNat < 0x10 ∨ 0x14 < op.toNat)

/-- The operand checks of R83, and that an instruction which fails one is refused with no effect (R85), in every state by the name of
that check. That it is this name also where a state check fails too (R84, BUSY) is the model's choice (DESIGN CHOICE,
notes/assumptions/5.md). -/
def Obligations.FailedOperandCheckRefusesByName : Prop :=
  (∀ id : Byte, (Instr.construct id id).illFormed = some .lines) ∧
  (∀ (pos : Byte) (segs : List Byte), 6 < segs.length → (Instr.write pos segs).illFormed = some .segLen) ∧
  (∀ str : List Byte, 0 ∈ str → str.length ≤ 65535 → (∀ f, (Instr.showText f str).illFormed = some .str) ∧
    (∀ d, (Instr.scroll d str).illFormed = some .str) ∧ (Instr.encodeString str).illFormed = some .str) ∧
  (∀ value : Half, 9999 < value.toNat → (Instr.number value).illFormed = some .number) ∧
  (∀ (i : Instr) (s : State) (c : Check), i.illFormed = some c → exec i s = .refused (.illFormed c))

/-! ## The step and the ports -/

/-- A step runs the decoded instruction: the packet leaves the inbox and the rest is exec. -/
def Obligations.StepRunsTheDecodedInstruction : Prop :=
  ∀ (s : State) (p : Packet) (rest : List Packet) (i : Instr),
    s.inbox = p :: rest → decode p = .ok i → step s = exec i { s with inbox := rest }

/-- R85: a packet the decoder rejects is refused with the name of the failed check. That it is the decoder's name in every state, also
where a state check fails too (R84), is the model's choice (DESIGN CHOICE, notes/assumptions/5.md). With no packet to issue CORE waits
(DESIGN CHOICE, notes/assumptions/12.md). -/
def Obligations.StepRefusesOrWaitsWithoutAnInstruction : Prop :=
  (∀ (s : State) (p : Packet) (rest : List Packet) (c : Check),
    s.inbox = p :: rest → decode p = .error c → step s = .refused (.illFormed c)) ∧
  ∀ s : State, s.inbox = [] → step s = .next s

/-- R84: the state checks of the `CTL` port, for every operation of the port, and none on the `ENC` port; R60, R130: `BUSY = 1`
accepts no packet on `CTL` and any on `ENC`. That the refusal names `BUSY` also where `CONSTRUCTED` fails too is the model's choice
(DESIGN CHOICE, notes/assumptions/5.md). -/
def Obligations.PortStateChecks : Prop :=
  (∀ (i : Instr) (op : CtlOp) (s : State), ctlOp i = some op → i.illFormed = none →
    (s.busy = true → exec i s = .refused .busy) ∧
    (s.busy = false → op = .construct → s.constructed = true → exec i s = .refused .alreadyConstructed) ∧
    (s.busy = false → op ≠ .construct → s.constructed = false → exec i s = .refused .notConstructed) ∧
    (s.busy = false → (s.constructed = true ↔ op ≠ .construct) → ∃ t, exec i s = .next t)) ∧
  ∀ (i : Instr) (s : State), i.source = .enc → i.illFormed = none → ∃ t, exec i s = .next t

/-- R21: after a packet is accepted on a port that is not busy, each latch it carries holds its operand, and `x[OPC]` its opcode;
while `BUSY = 1` an encoder operation leaves the latches alone. -/
def Obligations.LatchesHoldTheOperands : Prop :=
  ∀ (i : Instr) (s t : State), hostInstr i → exec i s = .next t →
    (s.busy = true → t.x = s.x) ∧
    (s.busy = false → t.x.opc = i.opcode ∧
      (∀ c d, i = .construct c d → t.x.clkId = c ∧ t.x.dioId = d) ∧
      (∀ v, i = .brightnessSet v → t.x.v = v) ∧
      (∀ pos segs, i = .write pos segs → t.x.pos = pos ∧ t.x.segs = segs) ∧
      (∀ colon str, i = .showText colon str → t.x.flag = colon ∧ t.x.s = str) ∧
      (∀ pos data, i = .setRaw pos data → t.x.pos = pos ∧ t.x.data = data) ∧
      (∀ pos ch dot, i = .setChar pos ch dot → t.x.pos = pos ∧ t.x.ch = ch ∧ t.x.flag = dot) ∧
      (∀ d str, i = .scroll d str → t.x.delayMs = d ∧ t.x.s = str) ∧
      (∀ d, i = .encodeDigit d → t.x.d = d) ∧
      (∀ c, i = .encodeChar c → t.x.ch = c) ∧
      (∀ str, i = .encodeString str → t.x.s = str) ∧
      (∀ value, i = .hex value ∨ i = .number value → t.x.value = value))

/-! ## The bus (40_bus_protocol.md) -/

/-- R110. -/
def Obligations.StartPullsDataThenClockLow : Prop :=
  ∀ s : State, exec .start s = .next
    { s with dio := false, clk := false, txn := .start,
             tr := s.tr ++ [.set .dio false, .delay, .set .clk false, .delay] }

/-- R111. -/
def Obligations.StopPullsDataLowRaisesClockRaisesData : Prop :=
  ∀ s : State, exec .stop s = .next
    { s with dio := true, clk := true, txn := .idle,
             tr := s.tr ++ [.set .dio false, .delay, .set .clk true, .delay, .set .dio true, .delay] }

/-- R112. -/
def Obligations.WriteByteSendsBitsLowFirstThenAckSlot : Prop :=
  ∀ (b : Byte) (s : State), exec (.writeByte b) s = .next
    { s with dio := b.getLsbD 7, clk := false, txn := .byte,
             tr := s.tr ++
               (([0, 1, 2, 3, 4, 5, 6, 7].flatMap fun k =>
                  [.set .dio (b.getLsbD k), .delay, .set .clk true, .delay, .set .clk false, .delay]) ++
                [.set .clk false, .delay, .set .clk true, .delay, .set .clk false, .delay]) }

/-- R113, as START, WRITE_BYTE and STOP run one after the other, and its byte log (R68). -/
def Obligations.CommandSequenceIsStartByteStop : Prop :=
  ∀ (cmd : Byte) (s : State), ∃ s₁ s₂ s₃,
    exec .start s = .next s₁ ∧ exec (.writeByte cmd) s₁ = .next s₂ ∧ exec .stop s₂ = .next s₃ ∧
    exec (.commandSequence cmd) s = .next { s₃ with bl := s.bl ++ [[cmd]] } ∧
    s₃ = { s with clk := true, dio := true, txn := .idle, tr := s.tr ++ txnWave [cmd] }

/-- The bus command bytes, each sent alone (R90, R91, R92, R93; the model's reading of these rows is notes/assumptions/2.md). -/
def Obligations.BusCommandBytesAreSentAlone : Prop :=
  ∀ s : State,
    exec .busDataAutoinc s = exec (.commandSequence 0x40) s ∧
    exec .busDataFixed s = exec (.commandSequence 0x44) s ∧
    (∀ b : BitVec 3, exec (.busDisplayCtrl b) s = exec (.commandSequence (0x80 ||| 0x08 ||| b.zeroExtend 8)) s) ∧
    (∀ p : BitVec 3, exec (.busAddress p) s = exec (.commandSequence (0xC0 ||| p.zeroExtend 8)) s) ∧
    ∀ c : Byte, exec (.commandSequence c) s =
      .next { s with clk := true, dio := true, txn := .idle, tr := s.tr ++ txnWave [c], bl := s.bl ++ [[c]] }

/-- R114: every line write of the Bus Protocol Layer is followed by exactly one delay, whatever is sent, and `START`, `STOP` and
`WRITE_BYTE` are 2, 3 and 27 such pairs. A bus command byte run alone is 32 pairs; that it is run alone as one transaction, `BUS_ADDRESS`
included, is the model's choice (DESIGN CHOICE, notes/assumptions/2.md). -/
def Obligations.EveryBusLineWriteHasOneDelay : Prop :=
  ∀ (i : Instr) (s t : State), i.source = .uop ∨ i.source = .bus → exec i s = .next t →
    ∃ es, t.tr = s.tr ++ es ∧ microStepsOnly es = true ∧
      (i = .start → es.length = 2 * 2) ∧ (i = .stop → es.length = 2 * 3) ∧ (∀ b, i = .writeByte b → es.length = 2 * 27) ∧
      (i.source = .bus → es.length = 2 * 32)

/-- R117, R118: `DIO` changes under a high `CLK` twice in a transaction that begins with both lines high, once in one that begins
with both low; both lines end high. -/
def Obligations.DataChangesUnderHighClockOnlyAtStartAndStop : Prop :=
  ∀ (s : State) (bytes : List Byte), ∃ es,
    (s.dataTransaction bytes).tr = s.tr ++ es ∧
    ((s.dataTransaction bytes).clk, (s.dataTransaction bytes).dio) = levelsAfter s.clk s.dio es ∧
    levelsAfter s.clk s.dio es = (true, true) ∧
    (s.clk = true → s.dio = true → dioChangesUnderHighClk s.clk s.dio es = 2) ∧
    (s.clk = false → s.dio = false → dioChangesUnderHighClk s.clk s.dio es = 1)

/-- R119 (general knowledge of the device: it samples on the rising edge): `WRITE_BYTE(b)` presents the bits of `b`, bit 0 first,
on eight rising edges, and still drives bit 7 on the ninth. -/
def Obligations.NineRisingEdgesCarryTheByte : Prop :=
  ∀ (b : Byte) (s t : State), s.clk = false → exec (.writeByte b) s = .next t →
    ∃ es, t.tr = s.tr ++ es ∧
      risingEdges s.clk s.dio es = ([0, 1, 2, 3, 4, 5, 6, 7].map fun k => b.getLsbD k) ++ [b.getLsbD 7]

/-- R68: the waveform determines the byte log. -/
def Obligations.WaveformDeterminesTheByteLog : Prop :=
  ∀ a b : List (List Byte), logWave a = logWave b → a = b

/-! ## The encoder (41_segment_encoder.md) -/

/-- R131, R52, with decisions D6, D8 and D9 of 92_eei_decisions.md: the entries of the ROM that have a value, and bit 7 of all. -/
def Obligations.RomContents : Prop :=
  [segRom 0, segRom 1, segRom 2, segRom 3, segRom 4, segRom 5, segRom 6, segRom 7, segRom 8, segRom 9, segRom 10,
   segRom 11, segRom 12, segRom 13, segRom 14, segRom 15, segRom 36] =
    [0x3F, 0x06, 0x5B, 0x4F, 0x66, 0x6D, 0x7D, 0x07, 0x7F, 0x6F, 0x77, 0x7C, 0x39, 0x5E, 0x79, 0x71, 0x40] ∧
  ∀ i : Fin 38, (segRom i).getLsbD 7 = false

/-- R132: the table entry for `d & 0xF`, no diagnostic for any `d`; the two patterns the source gives. -/
def Obligations.EncodeDigitReadsTheMaskedIndex : Prop :=
  ∀ s : State,
    (∀ d : Byte, ∃ k : Fin 38, k.val = (d &&& 0x0F).toNat ∧ answers (.encodeDigit d) s (.seg (segRom k) [])) ∧
    answers (.encodeDigit 0) s (.seg 0x3F []) ∧ answers (.encodeDigit 9) s (.seg 0x6F [])

/-- R133, class by class; anything else gives the blank pattern and one diagnostic (R184). -/
def Obligations.EncodeCharByClass : Prop :=
  ∀ s : State,
    answers (.encodeChar 0x20) s (.seg 0x00 []) ∧
    answers (.encodeChar 0x2A) s (.seg (segRom 37) []) ∧
    answers (.encodeChar 0x2D) s (.seg (segRom 36) []) ∧
    (∀ k : Fin 26, answers (.encodeChar (0x41 + BitVec.ofNat 8 k)) s (.seg (segRom ⟨10 + k, by omega⟩) []) ∧
      answers (.encodeChar (0x61 + BitVec.ofNat 8 k)) s (.seg (segRom ⟨10 + k, by omega⟩) [])) ∧
    (∀ k : Fin 10, answers (.encodeChar (0x30 + BitVec.ofNat 8 k)) s (.seg (segRom ⟨k, by omega⟩) [])) ∧
    (∀ c : Byte, c ≠ 0x20 → c ≠ 0x2A → c ≠ 0x2D → ¬ (0x41 ≤ c.toNat ∧ c.toNat ≤ 0x5A) →
      ¬ (0x61 ≤ c.toNat ∧ c.toNat ≤ 0x7A) → ¬ (0x30 ≤ c.toNat ∧ c.toNat ≤ 0x39) →
      answers (.encodeChar c) s (.seg 0x00 [.encodingMiss c]))

/-- R134: at most the first four characters, one value each, in order; the diagnostics in order. -/
def Obligations.EncodeStringEncodesTheFirstFour : Prop :=
  ∀ (str : List Byte) (s : State), str.length ≤ 65535 → 0 ∉ str →
    answers (.encodeString str) s
      (.segs ((str.take 4).map fun c => (encodeChar c).1) ((str.take 4).flatMap fun c => (encodeChar c).2))

/-- R135, with the layout of R52 (decision D7): the ROM entries of the four hexadecimal digits, most significant first; `FMT` holds
the formatted characters. -/
def Obligations.HexShowsFourHexDigits : Prop :=
  ∀ (value : Half) (s : State), ∃ (fmt : Vector Byte 4) (x : Latches) (n : Nat),
    exec (.hex value) s = .next
      { relatched x n s with
          fmt := fmt
          replies := s.replies ++ [.segs
            [segRom ⟨value.toNat / 4096 % 16, by omega⟩, segRom ⟨value.toNat / 256 % 16, by omega⟩,
             segRom ⟨value.toNat / 16 % 16, by omega⟩, segRom ⟨value.toNat % 16, by omega⟩] []] } ∧
    ∀ k : Fin 4, fmt[k].toNat = (let n := value.toNat / 16 ^ (3 - k.val) % 16; if n ≤ 9 then 0x30 + n else 0x61 + (n - 10))

/-- R136: for `value ≤ 9999`, the ROM entries of the four decimal digits, most significant first; above, no value. -/
def Obligations.NumberShowsFourDecimalDigits : Prop :=
  ∀ (value : Half) (s : State),
    (value.toNat ≤ 9999 → ∃ (fmt : Vector Byte 4) (x : Latches) (n : Nat),
      exec (.number value) s = .next
        { relatched x n s with
            fmt := fmt
            replies := s.replies ++ [.segs
              [segRom ⟨value.toNat / 1000 % 10, by omega⟩, segRom ⟨value.toNat / 100 % 10, by omega⟩,
               segRom ⟨value.toNat / 10 % 10, by omega⟩, segRom ⟨value.toNat % 10, by omega⟩] []] } ∧
      ∀ k : Fin 4, fmt[k].toNat = 0x30 + value.toNat / 10 ^ (3 - k.val) % 10) ∧
    (9999 < value.toNat → exec (.number value) s = .refused (.illFormed .number))

/-- R130: the reply of an encoder operation depends on no state: any two states give the same reply. -/
def Obligations.EncoderReplyDependsOnNoState : Prop :=
  ∀ (i : Instr) (s₁ s₂ t₁ t₂ : State), i.source = .enc → exec i s₁ = .next t₁ → exec i s₂ = .next t₂ →
    ∃ r, t₁.replies = s₁.replies ++ [r] ∧ t₂.replies = s₂.replies ++ [r]

/-- The frame of the encoder operations (R130, R135, R136): no line, no event, no register but `FMT` in `HEX` and `NUMBER`, and the
latches, which the port writes (R21). -/
def Obligations.EncoderFrame : Prop :=
  ∀ (i : Instr) (s t : State), i.source = .enc → exec i s = .next t →
    t = { s with x := t.x, fresh := t.fresh, fmt := t.fmt, replies := t.replies } ∧
    ((∀ v, i ≠ .hex v) → (∀ v, i ≠ .number v) → t.fmt = s.fmt)

/-! ## The display controller (42_display_controller.md) -/

/-- R150: from any state that has not been constructed; a second `CONSTRUCT` and one with equal identifiers are refused
(R84, R83). That equal identifiers are named in every state, also where `CONSTRUCTED` or `BUSY` fails too, is the model's choice (DESIGN
CHOICE, notes/assumptions/5.md). -/
def Obligations.ConstructBringsUpTheController : Prop :=
  (∀ (c d : Byte) (s : State), c ≠ d → atRest s →
    (s.constructed = false → ∃ x n,
      exec (.construct c d) s = .next
        { relatched x n s with
            clkId := c, dioId := d, clkDir := .out, dioDir := .out, clk := true, dio := true,
            bright := Config.defaultBrightness, constructed := true,
            tr := s.tr ++ ([.cfg .clk, .cfg .dio, .set .clk false, .set .dio false] ++
              txnWave [0x40] ++ txnWave [0x88 ||| Config.defaultBrightness.zeroExtend 8]),
            bl := s.bl ++ [[0x40], [0x88 ||| Config.defaultBrightness.zeroExtend 8]] }) ∧
    (s.constructed = true → exec (.construct c d) s = .refused .alreadyConstructed)) ∧
  ∀ (c : Byte) (s : State), exec (.construct c c) s = .refused (.illFormed .lines)

/-- R151. -/
def Obligations.BrightnessGetReturnsTheStoredValue : Prop :=
  ∀ s : State, ready s → ∃ x n,
    exec .brightnessGet s = .next { relatched x n s with replies := s.replies ++ [.byte (s.bright.zeroExtend 8)] }

/-- R152, R183. -/
def Obligations.BrightnessSetMasksDiagnosesAndSends : Prop :=
  ∀ (v : Byte) (s : State), ready s → ∃ x n,
    exec (.brightnessSet v) s = .next
      { relatched x n s with
          bright := (v &&& 7).setWidth 3, clk := true, dio := true,
          tr := s.tr ++ ((if 7 < v.toNat then [.diag (.brightnessRange v)] else []) ++
            txnWave [0x40] ++ txnWave [0x88 ||| (v &&& 7)]),
          bl := s.bl ++ [[0x40], [0x88 ||| (v &&& 7)]] }

/-- R153, R182: a position in 0..4 writes; any other gives one diagnostic and no bus activity. When `SEGBUF` is
loaded, and that its entries from `SEGLEN` on keep their values, is the model's inference (DEDUCED, notes/assumptions/17.md). -/
def Obligations.WriteSendsThreeTransactionsOrOneDiagnostic : Prop :=
  ∀ (pos : Byte) (segs : List Byte) (s : State), segs.length ≤ 6 → ready s →
    (0 ≤ pos.toInt → pos.toInt ≤ 4 → ∃ x n,
      exec (.write pos segs) s = .next
        { (relatched x n s).loadSegs segs with
            clk := true, dio := true,
            tr := s.tr ++ (txnWave [0x40] ++ txnWave ((0xC0 ||| pos) :: segs) ++ txnWave [dispByte s.bright]),
            bl := s.bl ++ [[0x40], (0xC0 ||| pos) :: segs, [dispByte s.bright]] }) ∧
    (pos.toInt < 0 ∨ 4 < pos.toInt → ∃ x n,
      exec (.write pos segs) s = .next
        { relatched x n s with tr := s.tr ++ [.diag (.positionRange pos)] })

/-- R29: what is loaded into `SEGBUF` is read back from `SEGBUF[0..SEGLEN-1]`, and the other entries keep their values. This
last R29 does not say: it is the model's inference (DEDUCED, notes/assumptions/17.md). -/
def Obligations.SegmentBufferHoldsWhatWasLoaded : Prop :=
  ∀ (s : State) (segs : List Byte), segs.length ≤ 6 →
    (s.loadSegs segs).seglen = segs.length ∧ (s.loadSegs segs).bufferedSegs = segs ∧
    ∀ k : Fin 6, segs.length ≤ k.val → (s.loadSegs segs).segbuf[k] = s.segbuf[k]

/-- R154: the diagnostics of the first four characters, then `WRITE` at position 0 of the encoded characters, the second with bit 7
set if there is a second and `colon` is true. That `SEGBUF` holds the values after the colon step, and keeps its entries from `SEGLEN` on,
is the model's inference (DEDUCED, notes/assumptions/17.md). -/
def Obligations.ShowWritesTheEncodedStringAtZero : Prop :=
  ∀ (colon : Bool) (str : List Byte) (s : State), str.length ≤ 65535 → 0 ∉ str → ready s →
    ∃ (segs : List Byte) (x : Latches) (n : Nat),
      segs.length = min str.length 4 ∧
      (∀ k : Nat, k < segs.length → segs[k]? =
        (str[k]?.map fun c => (encodeChar c).1 ||| (if colon = true ∧ k = 1 then 0x80 else 0))) ∧
      exec (.showText colon str) s = .next
        { (relatched x n s).loadSegs segs with
            clk := true, dio := true,
            tr := s.tr ++ (((str.take 4).flatMap fun c => (encodeChar c).2).map Event.diag ++
              (txnWave [0x40] ++ txnWave (0xC0 :: segs) ++ txnWave [dispByte s.bright])),
            bl := s.bl ++ [[0x40], 0xC0 :: segs, [dispByte s.bright]] }

/-- R155: for every `pos`. -/
def Obligations.SetRawSendsModeAddressDataDisplay : Prop :=
  ∀ (pos data : Byte) (s : State), ready s → ∃ x n,
    exec (.setRaw pos data) s = .next
      { relatched x n s with
          clk := true, dio := true,
          tr := s.tr ++ (txnWave [0x44] ++ txnWave [0xC0 ||| pos, data] ++ txnWave [dispByte s.bright]),
          bl := s.bl ++ [[0x44], [0xC0 ||| pos, data], [dispByte s.bright]] }

/-- R156: the diagnostic of a character outside the classes, then `SET_RAW` of its pattern, with bit 7 if `dot` is true. -/
def Obligations.SetCharSetsTheEncodedCharacter : Prop :=
  ∀ (pos ch : Byte) (dot : Bool) (s : State), ready s →
    ∃ (p : Byte) (x : Latches) (n : Nat), p = (encodeChar ch).1 ||| (if dot = true then 0x80 else 0) ∧
    exec (.setChar pos ch dot) s = .next
      { relatched x n s with
          clk := true, dio := true,
          tr := s.tr ++ ((encodeChar ch).2.map .diag ++
            (txnWave [0x44] ++ txnWave [0xC0 ||| pos, p] ++ txnWave [dispByte s.bright])),
          bl := s.bl ++ [[0x44], [0xC0 ||| pos, p], [dispByte s.bright]] }

/-- R157: for each character, one sleep, then what `SHOW` of the window sends; the window ends as the last four characters of four
spaces and the string. The empty string gives no event, and leaves the line levels and `SEGLEN`; what `SEGBUF` and the latches hold
afterwards is left open here for every string. When `SEGLEN` changes, and that the empty string still sets `WIN`, is the model's inference
(DEDUCED, notes/assumptions/17.md). -/
def Obligations.ScrollShowsEachWindow : Prop :=
  ∀ (delayMs : Half) (str : List Byte) (s : State), str.length ≤ 65535 → 0 ∉ str → ready s →
    ∃ t, exec (.scroll delayMs str) s = .next t ∧
      t.win.toList = ([0x20, 0x20, 0x20, 0x20] ++ str).drop str.length ∧
      (let shown := (List.range str.length).map fun k => (([0x20, 0x20, 0x20, 0x20] ++ str).drop (k + 1)).take 4
       t.tr = s.tr ++ (shown.flatMap fun w =>
          [.sleep delayMs] ++ (w.flatMap fun c => (encodeChar c).2).map Event.diag ++
          (txnWave [0x40] ++ txnWave (0xC0 :: w.map fun c => (encodeChar c).1) ++ txnWave [dispByte s.bright])) ∧
       t.bl = s.bl ++ (shown.flatMap fun w =>
          [[0x40], 0xC0 :: w.map fun c => (encodeChar c).1, [dispByte s.bright]])) ∧
      t = { relatched t.x t.fresh s with
              clk := if str = [] then s.clk else true, dio := if str = [] then s.dio else true,
              win := t.win, segbuf := t.segbuf, seglen := if str = [] then s.seglen else 4, tr := t.tr, bl := t.bl }

/-- R159, row by row. -/
def Obligations.EventCounts : Prop :=
  ∀ (i : Instr) (s t : State), exec i s = .next t → ∃ es, t.tr = s.tr ++ es ∧
    (i = .start → counts es = (0, 2, 2, 0, 0)) ∧
    (i = .stop → counts es = (0, 3, 3, 0, 0)) ∧
    (∀ b, i = .writeByte b → counts es = (0, 27, 27, 0, 0)) ∧
    (∀ c, i = .commandSequence c → counts es = (0, 32, 32, 0, 0)) ∧
    (∀ c d, i = .construct c d → counts es = (2, 66, 64, 0, 0)) ∧
    (i = .brightnessGet → counts es = (0, 0, 0, 0, 0)) ∧
    (∀ v, i = .brightnessSet v → counts es = (0, 64, 64, 0, if 7 < v.toNat then 1 else 0)) ∧
    (∀ pos segs, i = .write pos segs → 0 ≤ pos.toInt → pos.toInt ≤ 4 →
      counts es = (0, 96 + 27 * segs.length, 96 + 27 * segs.length, 0, 0)) ∧
    (∀ pos segs, i = .write pos segs → pos.toInt < 0 ∨ 4 < pos.toInt → counts es = (0, 0, 0, 0, 1)) ∧
    (∀ colon str, i = .showText colon str → ∃ m ≤ min str.length 4,
      counts es = (0, 96 + 27 * min str.length 4, 96 + 27 * min str.length 4, 0, m)) ∧
    (∀ pos data, i = .setRaw pos data → counts es = (0, 123, 123, 0, 0)) ∧
    (∀ pos ch dot, i = .setChar pos ch dot → ∃ m ≤ 1, counts es = (0, 123, 123, 0, m)) ∧
    (∀ d str, i = .scroll d str → ∃ m ≤ 4 * str.length,
      counts es = (0, 204 * str.length, 204 * str.length, str.length, m)) ∧
    (i.source = .enc → es = [])

/-- R235, R225: the least duration of a `SCROLL`: `len(s) × delay_ms` milliseconds and `len(s) × 204` delay units of 10 µs. -/
def Obligations.ScrollTakesAtLeast : Prop :=
  ∀ (d : Half) (str : List Byte) (s t : State), exec (.scroll d str) s = .next t → ∃ es, t.tr = s.tr ++ es ∧
    sleepMilliseconds es = str.length * d.toNat ∧ delayMicroseconds es = str.length * 2040

/-- R187, R188: in `BRIGHTNESS_SET`, `SHOW`, `WRITE`, `SET_RAW` and `SET_CHAR` every diagnostic comes before the first line write. -/
def Obligations.DiagnosticsComeBeforeLineWrites : Prop :=
  ∀ (i : Instr) (op : CtlOp) (s t : State), ctlOp i = some op → op ≠ .construct → op ≠ .scroll → exec i s = .next t →
    ∃ (ds : List Diag) (es : List Event), t.tr = s.tr ++ (ds.map Event.diag ++ es) ∧ es.all isLineEvent = true

/-- R160: the last transaction of every operation that sends one is the display-control byte with the present `BRIGHT`. -/
def Obligations.LastTransactionIsDisplayControl : Prop :=
  ∀ (i : Instr) (s t : State), hostInstr i → exec i s = .next t → t.bl ≠ s.bl →
    t.bl.getLast? = some [dispByte t.bright]

/-- R115, R63: what an operation of the `CTL` port appends depends on its operands and `BRIGHT` alone: on no line level, no buffer,
no latch and no earlier event. -/
def Obligations.AppendedEventsDependOnBrightAlone : Prop :=
  ∀ (i : Instr) (s₁ s₂ t₁ t₂ : State), hostInstr i → s₁.bright = s₂.bright →
    exec i s₁ = .next t₁ → exec i s₂ = .next t₂ →
    ∃ es bs rs, t₁.tr = s₁.tr ++ es ∧ t₂.tr = s₂.tr ++ es ∧ t₁.bl = s₁.bl ++ bs ∧ t₂.bl = s₂.bl ++ bs ∧
      t₁.replies = s₁.replies ++ rs ∧ t₂.replies = s₂.replies ++ rs ∧ t₁.bright = t₂.bright

/-- R180: the codes of the three diagnostics and what each records; `pos` is signed. -/
def Obligations.DiagnosticCodes : Prop :=
  (∀ v : Byte, (Diag.brightnessRange v).code = 1 ∧ (Diag.brightnessRange v).info = v.toNat) ∧
  (∀ pos : Byte, (Diag.positionRange pos).code = 2 ∧ (Diag.positionRange pos).info = pos.toInt) ∧
  ∀ c : Byte, (Diag.encodingMiss c).code = 3 ∧ (Diag.encodingMiss c).info = c.toNat

/-! ## The whole machine -/

/-- R24: only `CONSTRUCT` and `BRIGHTNESS_SET` write `BRIGHT`. -/
def Obligations.OnlyTwoOperationsWriteBright : Prop :=
  ∀ (i : Instr) (s t : State), exec i s = .next t → (∀ c d, i ≠ .construct c d) → (∀ v, i ≠ .brightnessSet v) →
    t.bright = s.bright

/-- R26, R25, R27: only `CONSTRUCT` writes the line identifiers, the directions and `CONSTRUCTED`; it happens at most once. -/
def Obligations.ConstructionIsForLife : Prop :=
  ∀ s t : State, s.constructed = true → step s = .next t →
    t.constructed = true ∧ t.clkId = s.clkId ∧ t.dioId = s.dioId ∧ t.clkDir = s.clkDir ∧ t.dioDir = s.dioDir

/-- R8: events are appended; none is removed or reordered. The same holds of the byte log and the values returned. -/
def Obligations.ObservationsAreOnlyAppended : Prop :=
  ∀ s t : State, step s = .next t → s.tr <+: t.tr ∧ s.bl <+: t.bl ∧ s.replies <+: t.replies

/-- R181, R224: no operation ends in a fault, in any state. -/
def Obligations.NoOperationFaults : Prop :=
  ∀ (i : Instr) (s : State) (f : Fault), exec i s ≠ .fault f

/-- R210: the values at power-on that the spec fixes. -/
def Obligations.PowerOnState : Prop :=
  State.reset.constructed = false ∧ State.reset.busy = false ∧ State.reset.txn = .idle ∧ State.reset.tr = [] ∧
  State.reset.bl = [] ∧ State.reset.clkDir = .unconfigured ∧ State.reset.dioDir = .unconfigured ∧
  State.reset.seqTuple = (none, 0, 0, .idle, 0, 0, 0)

/-- The invariant of CORE between operations holds at power-on. -/
def Obligations.InvariantAtPowerOn : Prop := Inv State.reset ∧ wireAgrees State.reset

/-- Every step keeps the invariant of CORE between operations (R23, R25, R27, R28, R29, R34, R160). -/
def Obligations.StepKeepsTheInvariant : Prop :=
  ∀ s t : State, Inv s → step s = .next t → Inv t

/-- R68: every step keeps `TR` and `BL` in agreement. -/
def Obligations.StepKeepsTraceAndByteLogInAgreement : Prop :=
  ∀ s t : State, Inv s → wireAgrees s → step s = .next t → wireAgrees t

/-- R96, R97: CORE sends only data commands 0x40 and 0x44, display-control bytes with the display on, and address bytes with at most
six data bytes. -/
def Obligations.OnlySendableTransactionsAreSent : Prop :=
  ∀ s t : State, hostInbox s → (∀ b ∈ s.bl, sendable b) → step s = .next t → ∀ b ∈ t.bl, sendable b

/-- R23: the small-step reading. An accepted `CTL` operation, run one micro-step at a time by `SEQ`, ends in the state the big step
gives, after as many micro-steps as the big step has delays; `BUSY` is 1 until then (R27). The small-step reading is the model's own second
definition of the operations, with its choices of what `SEQ` holds where R23 leaves it open (DESIGN CHOICE and DEDUCED,
notes/assumptions/10.md). -/
def Obligations.SmallStepsEndInTheBigStep : Prop :=
  ∀ (i : Instr) (op : CtlOp) (s : State), ctlOp i = some op →
    (∀ r, exec i s = .refused r → beginCtl op i s = .refused r) ∧
    ∀ t, exec i s = .next t → ∃ u es,
      beginCtl op i s = .next u ∧ t.tr = s.tr ++ es ∧ State.ticks (es.countP isDelay) u = t ∧ t.busy = false ∧
      ∀ k < es.countP isDelay, (State.ticks k u).busy = true

/-- R69, R53, R61: after an accepted `WRITE` the reference receiver holds `segments[k]` at position `pos + k` and what it held
elsewhere, unless a byte falls past position 5, where it stops (93_implementation_defined.md U4). -/
def Obligations.ReceiverAfterWrite : Prop :=
  ∀ (pos : Byte) (segs : List Byte) (s t : State) (d : Device), pos.toNat ≤ 4 → exec (.write pos segs) s = .next t →
    Device.unknown.receiveAll s.bl = some d →
    (6 < pos.toNat + segs.length → Device.unknown.receiveAll t.bl = none) ∧
    (pos.toNat + segs.length ≤ 6 → ∃ d', Device.unknown.receiveAll t.bl = some d' ∧
      d'.mode = some .auto ∧ d'.ctrl = some s.bright ∧
      ∀ k : Fin 6, d'.mem[k] =
        if pos.toNat ≤ k.val ∧ k.val < pos.toNat + segs.length then segs[k.val - pos.toNat]? else d.mem[k])

/-- R69, R226: after `SHOW` the receiver holds the shown characters from position 0 on, and the other positions are stale. -/
def Obligations.ReceiverAfterShow : Prop :=
  ∀ (colon : Bool) (str : List Byte) (s t : State) (d : Device), exec (.showText colon str) s = .next t →
    Device.unknown.receiveAll s.bl = some d →
    ∃ d', Device.unknown.receiveAll t.bl = some d' ∧ d'.mode = some .auto ∧ d'.ctrl = some s.bright ∧
      ∀ k : Fin 6, d'.mem[k] =
        if k.val < min str.length 4 then
          str[k.val]?.map fun c => (encodeChar c).1 ||| (if colon = true ∧ k.val = 1 ∧ 1 < str.length then 0x80 else 0)
        else d.mem[k]

/-- R69, R230: after `SET_RAW` at a position 0..5 the receiver holds the byte there, and is left in fixed-address mode. -/
def Obligations.ReceiverAfterSetRaw : Prop :=
  ∀ (pos data : Byte) (s t : State) (d : Device) (h : pos.toNat < 6), exec (.setRaw pos data) s = .next t →
    Device.unknown.receiveAll s.bl = some d →
    ∃ d', Device.unknown.receiveAll t.bl = some d' ∧ d'.mode = some .fixed ∧ d'.ctrl = some s.bright ∧
      d'.mem = d.mem.set pos.toNat (some data) h

/-- R196, R26: an instance whose lines are disjoint from another's stays so, unless it is constructed on lines of the other. -/
def Obligations.InstancesKeepTheirLinesApart : Prop :=
  ∀ (i : Instr) (a b t : State), exec i a = .next t → disjointLines a b = true →
    (∀ c d, i = .construct c d → c ≠ b.clkId ∧ c ≠ b.dioId ∧ d ≠ b.clkId ∧ d ≠ b.dioId) →
    disjointLines t b = true

/-- R196: a configuration in which two constructed instances share a line has no step, whichever instance is to run. A valid one goes on
with a `CONSTRUCT` exactly when no constructed instance has bound either of its lines, and refuses it otherwise. That the refusal is a
step's outcome under a name of its own is the model's form of R196 (DESIGN CHOICE, notes/assumptions/14.md). -/
def Obligations.SharedLinesAreRefused : Prop :=
  ∀ (cs : List State) (k : Fin cs.length),
    (¬ validConfiguration cs → stepInstance cs k = .refused .sharedLine) ∧
    ∀ (a b : Byte) (rest : List Packet), validConfiguration cs → a ≠ b → cs[k].busy = false → cs[k].constructed = false →
      cs[k].inbox = encode (.construct a b) :: rest →
      ((∃ j : Fin cs.length, cs[j].constructed = true ∧
          (cs[j].clkId = a ∨ cs[j].clkId = b ∨ cs[j].dioId = a ∨ cs[j].dioId = b)) →
        stepInstance cs k = .refused .sharedLine) ∧
      ((∀ j : Fin cs.length, cs[j].constructed = true →
          cs[j].clkId ≠ a ∧ cs[j].clkId ≠ b ∧ cs[j].dioId ≠ a ∧ cs[j].dioId ≠ b) →
        ∃ t, step cs[k] = .next t ∧ t.clkId = a ∧ t.dioId = b ∧ stepInstance cs k = .next (cs.set k t))

/-- R196: no packet but a `CONSTRUCT` is refused for the lines of another instance; in a valid configuration an instance runs it as if
it were alone (the form of the step is the model's, notes/assumptions/14.md). -/
def Obligations.OnlyConstructIsRefusedForASharedLine : Prop :=
  ∀ (cs : List State) (k : Fin cs.length) (t : State), validConfiguration cs → step cs[k] = .next t →
    (∀ (a b : Byte) (rest : List Packet), cs[k].inbox ≠ encode (.construct a b) :: rest) →
    stepInstance cs k = .next (cs.set k t)

/-- R196: there are no signals between instances. A step of one leaves every other as it is, is a step of that instance alone, and keeps
the configuration valid (the form of the step is the model's, notes/assumptions/14.md). -/
def Obligations.StepOfOneInstanceLeavesTheOthers : Prop :=
  ∀ (cs cs' : List State) (k : Fin cs.length), stepInstance cs k = .next cs' →
    validConfiguration cs' ∧ cs'.length = cs.length ∧ (∃ t, step cs[k] = .next t ∧ cs'[k.val]? = some t) ∧
    ∀ j : Nat, j ≠ k.val → cs'[j]? = cs[j]?
end

