-- ==== Sys2Proof/Laws/Decode.lean ====
section
/-! SUPPORT. The small laws of the decoder and the encoder: two-byte operands, truth values, sequences with a length field. -/

namespace Sys2Proof

theorem u16_getLsbD (lo hi : Byte) (i : Nat) :
    (u16 lo hi).getLsbD i = if i < 8 then lo.getLsbD i else hi.getLsbD (i - 8) :=
  (BitVec.getLsbD_append (x := hi) (y := lo)).trans (by cases decide (i < 8) <;> simp)

@[simp] theorem u16_loByte_hiByte (v : Half) : u16 (loByte v) (hiByte v) = v := by
  apply BitVec.eq_of_getLsbD_eq
  intro i hi
  rw [u16_getLsbD]
  split
  · next h => simp [loByte, h]
  · next h => simp [hiByte, show i - 8 < 8 by omega, show 8 + (i - 8) = i by omega]

@[simp] theorem loByte_u16 (lo hi : Byte) : loByte (u16 lo hi) = lo := by
  apply BitVec.eq_of_getLsbD_eq
  intro i h
  simp [loByte, u16_getLsbD, h]

@[simp] theorem hiByte_u16 (lo hi : Byte) : hiByte (u16 lo hi) = hi := by
  apply BitVec.eq_of_getLsbD_eq
  intro i h
  simp [hiByte, u16_getLsbD, h]

@[simp] theorem decodeFlag_encodeFlag (f : Bool) : decodeFlag (encodeFlag f) = .ok f := by
  cases f <;> rfl

theorem encodeFlag_of_decodeFlag {b : Byte} {f : Bool} (h : decodeFlag b = .ok f) : encodeFlag f = b := by
  unfold decodeFlag at h
  split at h
  · next hb => cases h; exact hb.symm
  · split at h
    · next hb => cases h; exact hb.symm
    · cases h

theorem decodeSeq_length {n : Nat} {rest : List Byte} (h : rest.length = n) : decodeSeq n rest = .ok rest := by
  simp [decodeSeq, h]

/-- A length of 16 bits comes back from its two bytes (R81). -/
theorem decodeSeq_u16 (str : List Byte) (h : str.length ≤ 65535) :
    decodeSeq (u16 (loByte (BitVec.ofNat 16 str.length)) (hiByte (BitVec.ofNat 16 str.length))).toNat str = .ok str := by
  rw [u16_loByte_hiByte]
  exact decodeSeq_length (by simp; omega)

theorem decodeSeq_u8 (segs : List Byte) (h : segs.length ≤ 6) :
    decodeSeq (BitVec.ofNat 8 segs.length).toNat segs = .ok segs :=
  decodeSeq_length (by simp; omega)

theorem strCheck_none {str : List Byte} (h : strCheck str = none) : str.length ≤ 65535 ∧ (0 : Byte) ∉ str := by
  unfold strCheck at h
  split at h
  · cases h
  · split at h
    · cases h
    · next h₁ h₂ => exact ⟨by simpa [Config.maxStrLen] using h₁, h₂⟩

end Sys2Proof
end

