-- ==== Sys2Proof/Laws/State.lean ====
section
/-! SUPPORT. One lemma for each field of State and each update of it: no later proof unfolds a record update. -/

namespace Sys2Proof.Machine

variable (s : State)

/-! `emit` -/
@[simp] theorem State.emit_bright (es : List Event) : (s.emit es).bright = s.bright := rfl
@[simp] theorem State.emit_clkId (es : List Event) : (s.emit es).clkId = s.clkId := rfl
@[simp] theorem State.emit_dioId (es : List Event) : (s.emit es).dioId = s.dioId := rfl
@[simp] theorem State.emit_clk (es : List Event) : (s.emit es).clk = s.clk := rfl
@[simp] theorem State.emit_dio (es : List Event) : (s.emit es).dio = s.dio := rfl
@[simp] theorem State.emit_clkDir (es : List Event) : (s.emit es).clkDir = s.clkDir := rfl
@[simp] theorem State.emit_dioDir (es : List Event) : (s.emit es).dioDir = s.dioDir := rfl
@[simp] theorem State.emit_constructed (es : List Event) : (s.emit es).constructed = s.constructed := rfl
@[simp] theorem State.emit_busy (es : List Event) : (s.emit es).busy = s.busy := rfl
@[simp] theorem State.emit_txn (es : List Event) : (s.emit es).txn = s.txn := rfl
@[simp] theorem State.emit_seq (es : List Event) : (s.emit es).seq = s.seq := rfl
@[simp] theorem State.emit_x (es : List Event) : (s.emit es).x = s.x := rfl
@[simp] theorem State.emit_segbuf (es : List Event) : (s.emit es).segbuf = s.segbuf := rfl
@[simp] theorem State.emit_seglen (es : List Event) : (s.emit es).seglen = s.seglen := rfl
@[simp] theorem State.emit_win (es : List Event) : (s.emit es).win = s.win := rfl
@[simp] theorem State.emit_fmt (es : List Event) : (s.emit es).fmt = s.fmt := rfl
@[simp] theorem State.emit_tr (es : List Event) : (s.emit es).tr = s.tr ++ es := rfl
@[simp] theorem State.emit_bl (es : List Event) : (s.emit es).bl = s.bl := rfl
@[simp] theorem State.emit_replies (es : List Event) : (s.emit es).replies = s.replies := rfl
@[simp] theorem State.emit_inbox (es : List Event) : (s.emit es).inbox = s.inbox := rfl
@[simp] theorem State.emit_fresh (es : List Event) : (s.emit es).fresh = s.fresh := rfl

/-! `setTxn` -/
@[simp] theorem State.setTxn_bright (p : Phase) : (s.setTxn p).bright = s.bright := rfl
@[simp] theorem State.setTxn_clkId (p : Phase) : (s.setTxn p).clkId = s.clkId := rfl
@[simp] theorem State.setTxn_dioId (p : Phase) : (s.setTxn p).dioId = s.dioId := rfl
@[simp] theorem State.setTxn_clk (p : Phase) : (s.setTxn p).clk = s.clk := rfl
@[simp] theorem State.setTxn_dio (p : Phase) : (s.setTxn p).dio = s.dio := rfl
@[simp] theorem State.setTxn_clkDir (p : Phase) : (s.setTxn p).clkDir = s.clkDir := rfl
@[simp] theorem State.setTxn_dioDir (p : Phase) : (s.setTxn p).dioDir = s.dioDir := rfl
@[simp] theorem State.setTxn_constructed (p : Phase) : (s.setTxn p).constructed = s.constructed := rfl
@[simp] theorem State.setTxn_busy (p : Phase) : (s.setTxn p).busy = s.busy := rfl
@[simp] theorem State.setTxn_txn (p : Phase) : (s.setTxn p).txn = p := rfl
@[simp] theorem State.setTxn_seq (p : Phase) : (s.setTxn p).seq = s.seq := rfl
@[simp] theorem State.setTxn_x (p : Phase) : (s.setTxn p).x = s.x := rfl
@[simp] theorem State.setTxn_segbuf (p : Phase) : (s.setTxn p).segbuf = s.segbuf := rfl
@[simp] theorem State.setTxn_seglen (p : Phase) : (s.setTxn p).seglen = s.seglen := rfl
@[simp] theorem State.setTxn_win (p : Phase) : (s.setTxn p).win = s.win := rfl
@[simp] theorem State.setTxn_fmt (p : Phase) : (s.setTxn p).fmt = s.fmt := rfl
@[simp] theorem State.setTxn_tr (p : Phase) : (s.setTxn p).tr = s.tr := rfl
@[simp] theorem State.setTxn_bl (p : Phase) : (s.setTxn p).bl = s.bl := rfl
@[simp] theorem State.setTxn_replies (p : Phase) : (s.setTxn p).replies = s.replies := rfl
@[simp] theorem State.setTxn_inbox (p : Phase) : (s.setTxn p).inbox = s.inbox := rfl
@[simp] theorem State.setTxn_fresh (p : Phase) : (s.setTxn p).fresh = s.fresh := rfl

/-! `logTxn` -/
@[simp] theorem State.logTxn_bright (bytes : List Byte) : (s.logTxn bytes).bright = s.bright := rfl
@[simp] theorem State.logTxn_clkId (bytes : List Byte) : (s.logTxn bytes).clkId = s.clkId := rfl
@[simp] theorem State.logTxn_dioId (bytes : List Byte) : (s.logTxn bytes).dioId = s.dioId := rfl
@[simp] theorem State.logTxn_clk (bytes : List Byte) : (s.logTxn bytes).clk = s.clk := rfl
@[simp] theorem State.logTxn_dio (bytes : List Byte) : (s.logTxn bytes).dio = s.dio := rfl
@[simp] theorem State.logTxn_clkDir (bytes : List Byte) : (s.logTxn bytes).clkDir = s.clkDir := rfl
@[simp] theorem State.logTxn_dioDir (bytes : List Byte) : (s.logTxn bytes).dioDir = s.dioDir := rfl
@[simp] theorem State.logTxn_constructed (bytes : List Byte) : (s.logTxn bytes).constructed = s.constructed := rfl
@[simp] theorem State.logTxn_busy (bytes : List Byte) : (s.logTxn bytes).busy = s.busy := rfl
@[simp] theorem State.logTxn_txn (bytes : List Byte) : (s.logTxn bytes).txn = s.txn := rfl
@[simp] theorem State.logTxn_seq (bytes : List Byte) : (s.logTxn bytes).seq = s.seq := rfl
@[simp] theorem State.logTxn_x (bytes : List Byte) : (s.logTxn bytes).x = s.x := rfl
@[simp] theorem State.logTxn_segbuf (bytes : List Byte) : (s.logTxn bytes).segbuf = s.segbuf := rfl
@[simp] theorem State.logTxn_seglen (bytes : List Byte) : (s.logTxn bytes).seglen = s.seglen := rfl
@[simp] theorem State.logTxn_win (bytes : List Byte) : (s.logTxn bytes).win = s.win := rfl
@[simp] theorem State.logTxn_fmt (bytes : List Byte) : (s.logTxn bytes).fmt = s.fmt := rfl
@[simp] theorem State.logTxn_tr (bytes : List Byte) : (s.logTxn bytes).tr = s.tr := rfl
@[simp] theorem State.logTxn_bl (bytes : List Byte) : (s.logTxn bytes).bl = s.bl ++ [bytes] := rfl
@[simp] theorem State.logTxn_replies (bytes : List Byte) : (s.logTxn bytes).replies = s.replies := rfl
@[simp] theorem State.logTxn_inbox (bytes : List Byte) : (s.logTxn bytes).inbox = s.inbox := rfl
@[simp] theorem State.logTxn_fresh (bytes : List Byte) : (s.logTxn bytes).fresh = s.fresh := rfl

/-! `reply` -/
@[simp] theorem State.reply_bright (r : Reply) : (s.reply r).bright = s.bright := rfl
@[simp] theorem State.reply_clkId (r : Reply) : (s.reply r).clkId = s.clkId := rfl
@[simp] theorem State.reply_dioId (r : Reply) : (s.reply r).dioId = s.dioId := rfl
@[simp] theorem State.reply_clk (r : Reply) : (s.reply r).clk = s.clk := rfl
@[simp] theorem State.reply_dio (r : Reply) : (s.reply r).dio = s.dio := rfl
@[simp] theorem State.reply_clkDir (r : Reply) : (s.reply r).clkDir = s.clkDir := rfl
@[simp] theorem State.reply_dioDir (r : Reply) : (s.reply r).dioDir = s.dioDir := rfl
@[simp] theorem State.reply_constructed (r : Reply) : (s.reply r).constructed = s.constructed := rfl
@[simp] theorem State.reply_busy (r : Reply) : (s.reply r).busy = s.busy := rfl
@[simp] theorem State.reply_txn (r : Reply) : (s.reply r).txn = s.txn := rfl
@[simp] theorem State.reply_seq (r : Reply) : (s.reply r).seq = s.seq := rfl
@[simp] theorem State.reply_x (r : Reply) : (s.reply r).x = s.x := rfl
@[simp] theorem State.reply_segbuf (r : Reply) : (s.reply r).segbuf = s.segbuf := rfl
@[simp] theorem State.reply_seglen (r : Reply) : (s.reply r).seglen = s.seglen := rfl
@[simp] theorem State.reply_win (r : Reply) : (s.reply r).win = s.win := rfl
@[simp] theorem State.reply_fmt (r : Reply) : (s.reply r).fmt = s.fmt := rfl
@[simp] theorem State.reply_tr (r : Reply) : (s.reply r).tr = s.tr := rfl
@[simp] theorem State.reply_bl (r : Reply) : (s.reply r).bl = s.bl := rfl
@[simp] theorem State.reply_replies (r : Reply) : (s.reply r).replies = s.replies ++ [r] := rfl
@[simp] theorem State.reply_inbox (r : Reply) : (s.reply r).inbox = s.inbox := rfl
@[simp] theorem State.reply_fresh (r : Reply) : (s.reply r).fresh = s.fresh := rfl

/-! `loadSegs` -/
@[simp] theorem State.loadSegs_bright (segs : List Byte) : (s.loadSegs segs).bright = s.bright := rfl
@[simp] theorem State.loadSegs_clkId (segs : List Byte) : (s.loadSegs segs).clkId = s.clkId := rfl
@[simp] theorem State.loadSegs_dioId (segs : List Byte) : (s.loadSegs segs).dioId = s.dioId := rfl
@[simp] theorem State.loadSegs_clk (segs : List Byte) : (s.loadSegs segs).clk = s.clk := rfl
@[simp] theorem State.loadSegs_dio (segs : List Byte) : (s.loadSegs segs).dio = s.dio := rfl
@[simp] theorem State.loadSegs_clkDir (segs : List Byte) : (s.loadSegs segs).clkDir = s.clkDir := rfl
@[simp] theorem State.loadSegs_dioDir (segs : List Byte) : (s.loadSegs segs).dioDir = s.dioDir := rfl
@[simp] theorem State.loadSegs_constructed (segs : List Byte) : (s.loadSegs segs).constructed = s.constructed := rfl
@[simp] theorem State.loadSegs_busy (segs : List Byte) : (s.loadSegs segs).busy = s.busy := rfl
@[simp] theorem State.loadSegs_txn (segs : List Byte) : (s.loadSegs segs).txn = s.txn := rfl
@[simp] theorem State.loadSegs_seq (segs : List Byte) : (s.loadSegs segs).seq = s.seq := rfl
@[simp] theorem State.loadSegs_x (segs : List Byte) : (s.loadSegs segs).x = s.x := rfl
@[simp] theorem State.loadSegs_segbuf (segs : List Byte) : (s.loadSegs segs).segbuf = Vector.ofFn fun i => segs.getD i.val s.segbuf[i] := rfl
@[simp] theorem State.loadSegs_seglen (segs : List Byte) : (s.loadSegs segs).seglen = segs.length := rfl
@[simp] theorem State.loadSegs_win (segs : List Byte) : (s.loadSegs segs).win = s.win := rfl
@[simp] theorem State.loadSegs_fmt (segs : List Byte) : (s.loadSegs segs).fmt = s.fmt := rfl
@[simp] theorem State.loadSegs_tr (segs : List Byte) : (s.loadSegs segs).tr = s.tr := rfl
@[simp] theorem State.loadSegs_bl (segs : List Byte) : (s.loadSegs segs).bl = s.bl := rfl
@[simp] theorem State.loadSegs_replies (segs : List Byte) : (s.loadSegs segs).replies = s.replies := rfl
@[simp] theorem State.loadSegs_inbox (segs : List Byte) : (s.loadSegs segs).inbox = s.inbox := rfl
@[simp] theorem State.loadSegs_fresh (segs : List Byte) : (s.loadSegs segs).fresh = s.fresh := rfl

/-! `setWin` -/
@[simp] theorem State.setWin_bright (w : Vector Byte 4) : (s.setWin w).bright = s.bright := rfl
@[simp] theorem State.setWin_clkId (w : Vector Byte 4) : (s.setWin w).clkId = s.clkId := rfl
@[simp] theorem State.setWin_dioId (w : Vector Byte 4) : (s.setWin w).dioId = s.dioId := rfl
@[simp] theorem State.setWin_clk (w : Vector Byte 4) : (s.setWin w).clk = s.clk := rfl
@[simp] theorem State.setWin_dio (w : Vector Byte 4) : (s.setWin w).dio = s.dio := rfl
@[simp] theorem State.setWin_clkDir (w : Vector Byte 4) : (s.setWin w).clkDir = s.clkDir := rfl
@[simp] theorem State.setWin_dioDir (w : Vector Byte 4) : (s.setWin w).dioDir = s.dioDir := rfl
@[simp] theorem State.setWin_constructed (w : Vector Byte 4) : (s.setWin w).constructed = s.constructed := rfl
@[simp] theorem State.setWin_busy (w : Vector Byte 4) : (s.setWin w).busy = s.busy := rfl
@[simp] theorem State.setWin_txn (w : Vector Byte 4) : (s.setWin w).txn = s.txn := rfl
@[simp] theorem State.setWin_seq (w : Vector Byte 4) : (s.setWin w).seq = s.seq := rfl
@[simp] theorem State.setWin_x (w : Vector Byte 4) : (s.setWin w).x = s.x := rfl
@[simp] theorem State.setWin_segbuf (w : Vector Byte 4) : (s.setWin w).segbuf = s.segbuf := rfl
@[simp] theorem State.setWin_seglen (w : Vector Byte 4) : (s.setWin w).seglen = s.seglen := rfl
@[simp] theorem State.setWin_win (w : Vector Byte 4) : (s.setWin w).win = w := rfl
@[simp] theorem State.setWin_fmt (w : Vector Byte 4) : (s.setWin w).fmt = s.fmt := rfl
@[simp] theorem State.setWin_tr (w : Vector Byte 4) : (s.setWin w).tr = s.tr := rfl
@[simp] theorem State.setWin_bl (w : Vector Byte 4) : (s.setWin w).bl = s.bl := rfl
@[simp] theorem State.setWin_replies (w : Vector Byte 4) : (s.setWin w).replies = s.replies := rfl
@[simp] theorem State.setWin_inbox (w : Vector Byte 4) : (s.setWin w).inbox = s.inbox := rfl
@[simp] theorem State.setWin_fresh (w : Vector Byte 4) : (s.setWin w).fresh = s.fresh := rfl

/-! `setFmt` -/
@[simp] theorem State.setFmt_bright (w : Vector Byte 4) : (s.setFmt w).bright = s.bright := rfl
@[simp] theorem State.setFmt_clkId (w : Vector Byte 4) : (s.setFmt w).clkId = s.clkId := rfl
@[simp] theorem State.setFmt_dioId (w : Vector Byte 4) : (s.setFmt w).dioId = s.dioId := rfl
@[simp] theorem State.setFmt_clk (w : Vector Byte 4) : (s.setFmt w).clk = s.clk := rfl
@[simp] theorem State.setFmt_dio (w : Vector Byte 4) : (s.setFmt w).dio = s.dio := rfl
@[simp] theorem State.setFmt_clkDir (w : Vector Byte 4) : (s.setFmt w).clkDir = s.clkDir := rfl
@[simp] theorem State.setFmt_dioDir (w : Vector Byte 4) : (s.setFmt w).dioDir = s.dioDir := rfl
@[simp] theorem State.setFmt_constructed (w : Vector Byte 4) : (s.setFmt w).constructed = s.constructed := rfl
@[simp] theorem State.setFmt_busy (w : Vector Byte 4) : (s.setFmt w).busy = s.busy := rfl
@[simp] theorem State.setFmt_txn (w : Vector Byte 4) : (s.setFmt w).txn = s.txn := rfl
@[simp] theorem State.setFmt_seq (w : Vector Byte 4) : (s.setFmt w).seq = s.seq := rfl
@[simp] theorem State.setFmt_x (w : Vector Byte 4) : (s.setFmt w).x = s.x := rfl
@[simp] theorem State.setFmt_segbuf (w : Vector Byte 4) : (s.setFmt w).segbuf = s.segbuf := rfl
@[simp] theorem State.setFmt_seglen (w : Vector Byte 4) : (s.setFmt w).seglen = s.seglen := rfl
@[simp] theorem State.setFmt_win (w : Vector Byte 4) : (s.setFmt w).win = s.win := rfl
@[simp] theorem State.setFmt_fmt (w : Vector Byte 4) : (s.setFmt w).fmt = w := rfl
@[simp] theorem State.setFmt_tr (w : Vector Byte 4) : (s.setFmt w).tr = s.tr := rfl
@[simp] theorem State.setFmt_bl (w : Vector Byte 4) : (s.setFmt w).bl = s.bl := rfl
@[simp] theorem State.setFmt_replies (w : Vector Byte 4) : (s.setFmt w).replies = s.replies := rfl
@[simp] theorem State.setFmt_inbox (w : Vector Byte 4) : (s.setFmt w).inbox = s.inbox := rfl
@[simp] theorem State.setFmt_fresh (w : Vector Byte 4) : (s.setFmt w).fresh = s.fresh := rfl

/-! `setBright` -/
@[simp] theorem State.setBright_bright (b : BitVec 3) : (s.setBright b).bright = b := rfl
@[simp] theorem State.setBright_clkId (b : BitVec 3) : (s.setBright b).clkId = s.clkId := rfl
@[simp] theorem State.setBright_dioId (b : BitVec 3) : (s.setBright b).dioId = s.dioId := rfl
@[simp] theorem State.setBright_clk (b : BitVec 3) : (s.setBright b).clk = s.clk := rfl
@[simp] theorem State.setBright_dio (b : BitVec 3) : (s.setBright b).dio = s.dio := rfl
@[simp] theorem State.setBright_clkDir (b : BitVec 3) : (s.setBright b).clkDir = s.clkDir := rfl
@[simp] theorem State.setBright_dioDir (b : BitVec 3) : (s.setBright b).dioDir = s.dioDir := rfl
@[simp] theorem State.setBright_constructed (b : BitVec 3) : (s.setBright b).constructed = s.constructed := rfl
@[simp] theorem State.setBright_busy (b : BitVec 3) : (s.setBright b).busy = s.busy := rfl
@[simp] theorem State.setBright_txn (b : BitVec 3) : (s.setBright b).txn = s.txn := rfl
@[simp] theorem State.setBright_seq (b : BitVec 3) : (s.setBright b).seq = s.seq := rfl
@[simp] theorem State.setBright_x (b : BitVec 3) : (s.setBright b).x = s.x := rfl
@[simp] theorem State.setBright_segbuf (b : BitVec 3) : (s.setBright b).segbuf = s.segbuf := rfl
@[simp] theorem State.setBright_seglen (b : BitVec 3) : (s.setBright b).seglen = s.seglen := rfl
@[simp] theorem State.setBright_win (b : BitVec 3) : (s.setBright b).win = s.win := rfl
@[simp] theorem State.setBright_fmt (b : BitVec 3) : (s.setBright b).fmt = s.fmt := rfl
@[simp] theorem State.setBright_tr (b : BitVec 3) : (s.setBright b).tr = s.tr := rfl
@[simp] theorem State.setBright_bl (b : BitVec 3) : (s.setBright b).bl = s.bl := rfl
@[simp] theorem State.setBright_replies (b : BitVec 3) : (s.setBright b).replies = s.replies := rfl
@[simp] theorem State.setBright_inbox (b : BitVec 3) : (s.setBright b).inbox = s.inbox := rfl
@[simp] theorem State.setBright_fresh (b : BitVec 3) : (s.setBright b).fresh = s.fresh := rfl

/-! `setConstructed` -/
@[simp] theorem State.setConstructed_bright : (s.setConstructed).bright = s.bright := rfl
@[simp] theorem State.setConstructed_clkId : (s.setConstructed).clkId = s.clkId := rfl
@[simp] theorem State.setConstructed_dioId : (s.setConstructed).dioId = s.dioId := rfl
@[simp] theorem State.setConstructed_clk : (s.setConstructed).clk = s.clk := rfl
@[simp] theorem State.setConstructed_dio : (s.setConstructed).dio = s.dio := rfl
@[simp] theorem State.setConstructed_clkDir : (s.setConstructed).clkDir = s.clkDir := rfl
@[simp] theorem State.setConstructed_dioDir : (s.setConstructed).dioDir = s.dioDir := rfl
@[simp] theorem State.setConstructed_constructed : (s.setConstructed).constructed = true := rfl
@[simp] theorem State.setConstructed_busy : (s.setConstructed).busy = s.busy := rfl
@[simp] theorem State.setConstructed_txn : (s.setConstructed).txn = s.txn := rfl
@[simp] theorem State.setConstructed_seq : (s.setConstructed).seq = s.seq := rfl
@[simp] theorem State.setConstructed_x : (s.setConstructed).x = s.x := rfl
@[simp] theorem State.setConstructed_segbuf : (s.setConstructed).segbuf = s.segbuf := rfl
@[simp] theorem State.setConstructed_seglen : (s.setConstructed).seglen = s.seglen := rfl
@[simp] theorem State.setConstructed_win : (s.setConstructed).win = s.win := rfl
@[simp] theorem State.setConstructed_fmt : (s.setConstructed).fmt = s.fmt := rfl
@[simp] theorem State.setConstructed_tr : (s.setConstructed).tr = s.tr := rfl
@[simp] theorem State.setConstructed_bl : (s.setConstructed).bl = s.bl := rfl
@[simp] theorem State.setConstructed_replies : (s.setConstructed).replies = s.replies := rfl
@[simp] theorem State.setConstructed_inbox : (s.setConstructed).inbox = s.inbox := rfl
@[simp] theorem State.setConstructed_fresh : (s.setConstructed).fresh = s.fresh := rfl

/-! `finish` -/
@[simp] theorem State.finish_bright : (s.finish).bright = s.bright := rfl
@[simp] theorem State.finish_clkId : (s.finish).clkId = s.clkId := rfl
@[simp] theorem State.finish_dioId : (s.finish).dioId = s.dioId := rfl
@[simp] theorem State.finish_clk : (s.finish).clk = s.clk := rfl
@[simp] theorem State.finish_dio : (s.finish).dio = s.dio := rfl
@[simp] theorem State.finish_clkDir : (s.finish).clkDir = s.clkDir := rfl
@[simp] theorem State.finish_dioDir : (s.finish).dioDir = s.dioDir := rfl
@[simp] theorem State.finish_constructed : (s.finish).constructed = s.constructed := rfl
@[simp] theorem State.finish_busy : (s.finish).busy = false := rfl
@[simp] theorem State.finish_txn : (s.finish).txn = .idle := rfl
@[simp] theorem State.finish_seq : (s.finish).seq = Seq.idle := rfl
@[simp] theorem State.finish_x : (s.finish).x = s.x := rfl
@[simp] theorem State.finish_segbuf : (s.finish).segbuf = s.segbuf := rfl
@[simp] theorem State.finish_seglen : (s.finish).seglen = s.seglen := rfl
@[simp] theorem State.finish_win : (s.finish).win = s.win := rfl
@[simp] theorem State.finish_fmt : (s.finish).fmt = s.fmt := rfl
@[simp] theorem State.finish_tr : (s.finish).tr = s.tr := rfl
@[simp] theorem State.finish_bl : (s.finish).bl = s.bl := rfl
@[simp] theorem State.finish_replies : (s.finish).replies = s.replies := rfl
@[simp] theorem State.finish_inbox : (s.finish).inbox = s.inbox := rfl
@[simp] theorem State.finish_fresh : (s.finish).fresh = s.fresh := rfl

/-! `issueFirst` -/
@[simp] theorem State.issueFirst_bright (p : Packet) : (s.issueFirst p).bright = s.bright := rfl
@[simp] theorem State.issueFirst_clkId (p : Packet) : (s.issueFirst p).clkId = s.clkId := rfl
@[simp] theorem State.issueFirst_dioId (p : Packet) : (s.issueFirst p).dioId = s.dioId := rfl
@[simp] theorem State.issueFirst_clk (p : Packet) : (s.issueFirst p).clk = s.clk := rfl
@[simp] theorem State.issueFirst_dio (p : Packet) : (s.issueFirst p).dio = s.dio := rfl
@[simp] theorem State.issueFirst_clkDir (p : Packet) : (s.issueFirst p).clkDir = s.clkDir := rfl
@[simp] theorem State.issueFirst_dioDir (p : Packet) : (s.issueFirst p).dioDir = s.dioDir := rfl
@[simp] theorem State.issueFirst_constructed (p : Packet) : (s.issueFirst p).constructed = s.constructed := rfl
@[simp] theorem State.issueFirst_busy (p : Packet) : (s.issueFirst p).busy = s.busy := rfl
@[simp] theorem State.issueFirst_txn (p : Packet) : (s.issueFirst p).txn = s.txn := rfl
@[simp] theorem State.issueFirst_seq (p : Packet) : (s.issueFirst p).seq = s.seq := rfl
@[simp] theorem State.issueFirst_x (p : Packet) : (s.issueFirst p).x = s.x := rfl
@[simp] theorem State.issueFirst_segbuf (p : Packet) : (s.issueFirst p).segbuf = s.segbuf := rfl
@[simp] theorem State.issueFirst_seglen (p : Packet) : (s.issueFirst p).seglen = s.seglen := rfl
@[simp] theorem State.issueFirst_win (p : Packet) : (s.issueFirst p).win = s.win := rfl
@[simp] theorem State.issueFirst_fmt (p : Packet) : (s.issueFirst p).fmt = s.fmt := rfl
@[simp] theorem State.issueFirst_tr (p : Packet) : (s.issueFirst p).tr = s.tr := rfl
@[simp] theorem State.issueFirst_bl (p : Packet) : (s.issueFirst p).bl = s.bl := rfl
@[simp] theorem State.issueFirst_replies (p : Packet) : (s.issueFirst p).replies = s.replies := rfl
@[simp] theorem State.issueFirst_inbox (p : Packet) : (s.issueFirst p).inbox = p :: s.inbox := rfl
@[simp] theorem State.issueFirst_fresh (p : Packet) : (s.issueFirst p).fresh = s.fresh := rfl

/-! `setLine` and `cfgLine` of `CLK` -/
@[simp] theorem State.setLine_clk_bright (b : Bool) : (s.setLine .clk b).bright = s.bright := rfl
@[simp] theorem State.setLine_clk_clkId (b : Bool) : (s.setLine .clk b).clkId = s.clkId := rfl
@[simp] theorem State.setLine_clk_dioId (b : Bool) : (s.setLine .clk b).dioId = s.dioId := rfl
@[simp] theorem State.setLine_clk_clk (b : Bool) : (s.setLine .clk b).clk = b := rfl
@[simp] theorem State.setLine_clk_dio (b : Bool) : (s.setLine .clk b).dio = s.dio := rfl
@[simp] theorem State.setLine_clk_clkDir (b : Bool) : (s.setLine .clk b).clkDir = s.clkDir := rfl
@[simp] theorem State.setLine_clk_dioDir (b : Bool) : (s.setLine .clk b).dioDir = s.dioDir := rfl
@[simp] theorem State.setLine_clk_constructed (b : Bool) : (s.setLine .clk b).constructed = s.constructed := rfl
@[simp] theorem State.setLine_clk_busy (b : Bool) : (s.setLine .clk b).busy = s.busy := rfl
@[simp] theorem State.setLine_clk_txn (b : Bool) : (s.setLine .clk b).txn = s.txn := rfl
@[simp] theorem State.setLine_clk_seq (b : Bool) : (s.setLine .clk b).seq = s.seq := rfl
@[simp] theorem State.setLine_clk_x (b : Bool) : (s.setLine .clk b).x = s.x := rfl
@[simp] theorem State.setLine_clk_segbuf (b : Bool) : (s.setLine .clk b).segbuf = s.segbuf := rfl
@[simp] theorem State.setLine_clk_seglen (b : Bool) : (s.setLine .clk b).seglen = s.seglen := rfl
@[simp] theorem State.setLine_clk_win (b : Bool) : (s.setLine .clk b).win = s.win := rfl
@[simp] theorem State.setLine_clk_fmt (b : Bool) : (s.setLine .clk b).fmt = s.fmt := rfl
@[simp] theorem State.setLine_clk_tr (b : Bool) : (s.setLine .clk b).tr = s.tr ++ [.set .clk b] := rfl
@[simp] theorem State.setLine_clk_bl (b : Bool) : (s.setLine .clk b).bl = s.bl := rfl
@[simp] theorem State.setLine_clk_replies (b : Bool) : (s.setLine .clk b).replies = s.replies := rfl
@[simp] theorem State.setLine_clk_inbox (b : Bool) : (s.setLine .clk b).inbox = s.inbox := rfl
@[simp] theorem State.setLine_clk_fresh (b : Bool) : (s.setLine .clk b).fresh = s.fresh := rfl
@[simp] theorem State.cfgLine_clk_bright : (s.cfgLine .clk).bright = s.bright := rfl
@[simp] theorem State.cfgLine_clk_clkId : (s.cfgLine .clk).clkId = s.clkId := rfl
@[simp] theorem State.cfgLine_clk_dioId : (s.cfgLine .clk).dioId = s.dioId := rfl
@[simp] theorem State.cfgLine_clk_clk : (s.cfgLine .clk).clk = s.clk := rfl
@[simp] theorem State.cfgLine_clk_dio : (s.cfgLine .clk).dio = s.dio := rfl
@[simp] theorem State.cfgLine_clk_clkDir : (s.cfgLine .clk).clkDir = .out := rfl
@[simp] theorem State.cfgLine_clk_dioDir : (s.cfgLine .clk).dioDir = s.dioDir := rfl
@[simp] theorem State.cfgLine_clk_constructed : (s.cfgLine .clk).constructed = s.constructed := rfl
@[simp] theorem State.cfgLine_clk_busy : (s.cfgLine .clk).busy = s.busy := rfl
@[simp] theorem State.cfgLine_clk_txn : (s.cfgLine .clk).txn = s.txn := rfl
@[simp] theorem State.cfgLine_clk_seq : (s.cfgLine .clk).seq = s.seq := rfl
@[simp] theorem State.cfgLine_clk_x : (s.cfgLine .clk).x = s.x := rfl
@[simp] theorem State.cfgLine_clk_segbuf : (s.cfgLine .clk).segbuf = s.segbuf := rfl
@[simp] theorem State.cfgLine_clk_seglen : (s.cfgLine .clk).seglen = s.seglen := rfl
@[simp] theorem State.cfgLine_clk_win : (s.cfgLine .clk).win = s.win := rfl
@[simp] theorem State.cfgLine_clk_fmt : (s.cfgLine .clk).fmt = s.fmt := rfl
@[simp] theorem State.cfgLine_clk_tr : (s.cfgLine .clk).tr = s.tr ++ [.cfg .clk] := rfl
@[simp] theorem State.cfgLine_clk_bl : (s.cfgLine .clk).bl = s.bl := rfl
@[simp] theorem State.cfgLine_clk_replies : (s.cfgLine .clk).replies = s.replies := rfl
@[simp] theorem State.cfgLine_clk_inbox : (s.cfgLine .clk).inbox = s.inbox := rfl
@[simp] theorem State.cfgLine_clk_fresh : (s.cfgLine .clk).fresh = s.fresh := rfl

/-! `setLine` and `cfgLine` of `DIO` -/
@[simp] theorem State.setLine_dio_bright (b : Bool) : (s.setLine .dio b).bright = s.bright := rfl
@[simp] theorem State.setLine_dio_clkId (b : Bool) : (s.setLine .dio b).clkId = s.clkId := rfl
@[simp] theorem State.setLine_dio_dioId (b : Bool) : (s.setLine .dio b).dioId = s.dioId := rfl
@[simp] theorem State.setLine_dio_clk (b : Bool) : (s.setLine .dio b).clk = s.clk := rfl
@[simp] theorem State.setLine_dio_dio (b : Bool) : (s.setLine .dio b).dio = b := rfl
@[simp] theorem State.setLine_dio_clkDir (b : Bool) : (s.setLine .dio b).clkDir = s.clkDir := rfl
@[simp] theorem State.setLine_dio_dioDir (b : Bool) : (s.setLine .dio b).dioDir = s.dioDir := rfl
@[simp] theorem State.setLine_dio_constructed (b : Bool) : (s.setLine .dio b).constructed = s.constructed := rfl
@[simp] theorem State.setLine_dio_busy (b : Bool) : (s.setLine .dio b).busy = s.busy := rfl
@[simp] theorem State.setLine_dio_txn (b : Bool) : (s.setLine .dio b).txn = s.txn := rfl
@[simp] theorem State.setLine_dio_seq (b : Bool) : (s.setLine .dio b).seq = s.seq := rfl
@[simp] theorem State.setLine_dio_x (b : Bool) : (s.setLine .dio b).x = s.x := rfl
@[simp] theorem State.setLine_dio_segbuf (b : Bool) : (s.setLine .dio b).segbuf = s.segbuf := rfl
@[simp] theorem State.setLine_dio_seglen (b : Bool) : (s.setLine .dio b).seglen = s.seglen := rfl
@[simp] theorem State.setLine_dio_win (b : Bool) : (s.setLine .dio b).win = s.win := rfl
@[simp] theorem State.setLine_dio_fmt (b : Bool) : (s.setLine .dio b).fmt = s.fmt := rfl
@[simp] theorem State.setLine_dio_tr (b : Bool) : (s.setLine .dio b).tr = s.tr ++ [.set .dio b] := rfl
@[simp] theorem State.setLine_dio_bl (b : Bool) : (s.setLine .dio b).bl = s.bl := rfl
@[simp] theorem State.setLine_dio_replies (b : Bool) : (s.setLine .dio b).replies = s.replies := rfl
@[simp] theorem State.setLine_dio_inbox (b : Bool) : (s.setLine .dio b).inbox = s.inbox := rfl
@[simp] theorem State.setLine_dio_fresh (b : Bool) : (s.setLine .dio b).fresh = s.fresh := rfl
@[simp] theorem State.cfgLine_dio_bright : (s.cfgLine .dio).bright = s.bright := rfl
@[simp] theorem State.cfgLine_dio_clkId : (s.cfgLine .dio).clkId = s.clkId := rfl
@[simp] theorem State.cfgLine_dio_dioId : (s.cfgLine .dio).dioId = s.dioId := rfl
@[simp] theorem State.cfgLine_dio_clk : (s.cfgLine .dio).clk = s.clk := rfl
@[simp] theorem State.cfgLine_dio_dio : (s.cfgLine .dio).dio = s.dio := rfl
@[simp] theorem State.cfgLine_dio_clkDir : (s.cfgLine .dio).clkDir = s.clkDir := rfl
@[simp] theorem State.cfgLine_dio_dioDir : (s.cfgLine .dio).dioDir = .out := rfl
@[simp] theorem State.cfgLine_dio_constructed : (s.cfgLine .dio).constructed = s.constructed := rfl
@[simp] theorem State.cfgLine_dio_busy : (s.cfgLine .dio).busy = s.busy := rfl
@[simp] theorem State.cfgLine_dio_txn : (s.cfgLine .dio).txn = s.txn := rfl
@[simp] theorem State.cfgLine_dio_seq : (s.cfgLine .dio).seq = s.seq := rfl
@[simp] theorem State.cfgLine_dio_x : (s.cfgLine .dio).x = s.x := rfl
@[simp] theorem State.cfgLine_dio_segbuf : (s.cfgLine .dio).segbuf = s.segbuf := rfl
@[simp] theorem State.cfgLine_dio_seglen : (s.cfgLine .dio).seglen = s.seglen := rfl
@[simp] theorem State.cfgLine_dio_win : (s.cfgLine .dio).win = s.win := rfl
@[simp] theorem State.cfgLine_dio_fmt : (s.cfgLine .dio).fmt = s.fmt := rfl
@[simp] theorem State.cfgLine_dio_tr : (s.cfgLine .dio).tr = s.tr ++ [.cfg .dio] := rfl
@[simp] theorem State.cfgLine_dio_bl : (s.cfgLine .dio).bl = s.bl := rfl
@[simp] theorem State.cfgLine_dio_replies : (s.cfgLine .dio).replies = s.replies := rfl
@[simp] theorem State.cfgLine_dio_inbox : (s.cfgLine .dio).inbox = s.inbox := rfl
@[simp] theorem State.cfgLine_dio_fresh : (s.cfgLine .dio).fresh = s.fresh := rfl

/-! `latch` and `accept`: only the latches and the counter of free values, and for `accept` the handshake -/
@[simp] theorem State.latch_bright (i : Instr) : (s.latch i).bright = s.bright := by unfold State.latch; split <;> rfl
@[simp] theorem State.latch_clkId (i : Instr) : (s.latch i).clkId = s.clkId := by unfold State.latch; split <;> rfl
@[simp] theorem State.latch_dioId (i : Instr) : (s.latch i).dioId = s.dioId := by unfold State.latch; split <;> rfl
@[simp] theorem State.latch_clk (i : Instr) : (s.latch i).clk = s.clk := by unfold State.latch; split <;> rfl
@[simp] theorem State.latch_dio (i : Instr) : (s.latch i).dio = s.dio := by unfold State.latch; split <;> rfl
@[simp] theorem State.latch_clkDir (i : Instr) : (s.latch i).clkDir = s.clkDir := by unfold State.latch; split <;> rfl
@[simp] theorem State.latch_dioDir (i : Instr) : (s.latch i).dioDir = s.dioDir := by unfold State.latch; split <;> rfl
@[simp] theorem State.latch_constructed (i : Instr) : (s.latch i).constructed = s.constructed := by unfold State.latch; split <;> rfl
@[simp] theorem State.latch_busy (i : Instr) : (s.latch i).busy = s.busy := by unfold State.latch; split <;> rfl
@[simp] theorem State.latch_txn (i : Instr) : (s.latch i).txn = s.txn := by unfold State.latch; split <;> rfl
@[simp] theorem State.latch_seq (i : Instr) : (s.latch i).seq = s.seq := by unfold State.latch; split <;> rfl
@[simp] theorem State.latch_segbuf (i : Instr) : (s.latch i).segbuf = s.segbuf := by unfold State.latch; split <;> rfl
@[simp] theorem State.latch_seglen (i : Instr) : (s.latch i).seglen = s.seglen := by unfold State.latch; split <;> rfl
@[simp] theorem State.latch_win (i : Instr) : (s.latch i).win = s.win := by unfold State.latch; split <;> rfl
@[simp] theorem State.latch_fmt (i : Instr) : (s.latch i).fmt = s.fmt := by unfold State.latch; split <;> rfl
@[simp] theorem State.latch_tr (i : Instr) : (s.latch i).tr = s.tr := by unfold State.latch; split <;> rfl
@[simp] theorem State.latch_bl (i : Instr) : (s.latch i).bl = s.bl := by unfold State.latch; split <;> rfl
@[simp] theorem State.latch_replies (i : Instr) : (s.latch i).replies = s.replies := by unfold State.latch; split <;> rfl
@[simp] theorem State.latch_inbox (i : Instr) : (s.latch i).inbox = s.inbox := by unfold State.latch; split <;> rfl
@[simp] theorem State.accept_bright (op : CtlOp) (i : Instr) : (s.accept op i).bright = s.bright := s.latch_bright i
@[simp] theorem State.accept_clkId (op : CtlOp) (i : Instr) : (s.accept op i).clkId = s.clkId := s.latch_clkId i
@[simp] theorem State.accept_dioId (op : CtlOp) (i : Instr) : (s.accept op i).dioId = s.dioId := s.latch_dioId i
@[simp] theorem State.accept_clk (op : CtlOp) (i : Instr) : (s.accept op i).clk = s.clk := s.latch_clk i
@[simp] theorem State.accept_dio (op : CtlOp) (i : Instr) : (s.accept op i).dio = s.dio := s.latch_dio i
@[simp] theorem State.accept_clkDir (op : CtlOp) (i : Instr) : (s.accept op i).clkDir = s.clkDir := s.latch_clkDir i
@[simp] theorem State.accept_dioDir (op : CtlOp) (i : Instr) : (s.accept op i).dioDir = s.dioDir := s.latch_dioDir i
@[simp] theorem State.accept_constructed (op : CtlOp) (i : Instr) : (s.accept op i).constructed = s.constructed := s.latch_constructed i
@[simp] theorem State.accept_busy (op : CtlOp) (i : Instr) : (s.accept op i).busy = true := rfl
@[simp] theorem State.accept_txn (op : CtlOp) (i : Instr) : (s.accept op i).txn = s.txn := s.latch_txn i
@[simp] theorem State.accept_seq (op : CtlOp) (i : Instr) : (s.accept op i).seq = { Seq.idle with op := some op } := rfl
@[simp] theorem State.accept_x (op : CtlOp) (i : Instr) : (s.accept op i).x = (s.latch i).x := rfl
@[simp] theorem State.accept_segbuf (op : CtlOp) (i : Instr) : (s.accept op i).segbuf = s.segbuf := s.latch_segbuf i
@[simp] theorem State.accept_seglen (op : CtlOp) (i : Instr) : (s.accept op i).seglen = s.seglen := s.latch_seglen i
@[simp] theorem State.accept_win (op : CtlOp) (i : Instr) : (s.accept op i).win = s.win := s.latch_win i
@[simp] theorem State.accept_fmt (op : CtlOp) (i : Instr) : (s.accept op i).fmt = s.fmt := s.latch_fmt i
@[simp] theorem State.accept_tr (op : CtlOp) (i : Instr) : (s.accept op i).tr = s.tr := s.latch_tr i
@[simp] theorem State.accept_bl (op : CtlOp) (i : Instr) : (s.accept op i).bl = s.bl := s.latch_bl i
@[simp] theorem State.accept_replies (op : CtlOp) (i : Instr) : (s.accept op i).replies = s.replies := s.latch_replies i
@[simp] theorem State.accept_inbox (op : CtlOp) (i : Instr) : (s.accept op i).inbox = s.inbox := s.latch_inbox i
@[simp] theorem State.accept_fresh (op : CtlOp) (i : Instr) : (s.accept op i).fresh = (s.latch i).fresh := rfl

end Sys2Proof.Machine
end

