-- ==== Sys2Proof/Laws/Ops.lean ====
section
/-! SUPPORT. What each shared operation on the bus, and each body of a `CTL` operation, does, said once: the whole next state. -/

namespace Sys2Proof.Machine

open Sys2Proof.Safety

/-! The micro-operations (40_bus_protocol.md). -/

theorem State.uopStart_eq (s : State) :
    s.uopStart = { s with dio := false, clk := false, txn := .start, tr := s.tr ++ startWave } := by
  simp [State.uopStart, State.microStep, State.delay, State.emit, State.setLine, State.setTxn, startWave, micro]

theorem State.uopStop_eq (s : State) :
    s.uopStop = { s with dio := true, clk := true, txn := .idle, tr := s.tr ++ stopWave } := by
  simp [State.uopStop, State.microStep, State.delay, State.emit, State.setLine, State.setTxn, stopWave, micro]

theorem State.dataSlot_eq (s : State) (b : Byte) (k : Nat) :
    s.dataSlot (b.getLsbD k) = { s with dio := b.getLsbD k, clk := false, tr := s.tr ++ slotWave b k } := by
  simp [State.dataSlot, State.microStep, State.delay, State.emit, State.setLine, slotWave, micro]

theorem State.ackSlot_eq (s : State) : s.ackSlot = { s with clk := false, tr := s.tr ++ ackWave } := by
  simp [State.ackSlot, State.microStep, State.delay, State.emit, State.setLine, ackWave, micro]

theorem State.uopWriteByte_eq (s : State) (b : Byte) :
    s.uopWriteByte b =
      { s with dio := b.getLsbD 7, clk := false, txn := .byte, tr := s.tr ++ byteWave b } := by
  simp [State.uopWriteByte, List.range_succ, State.dataSlot_eq, State.ackSlot_eq, State.setTxn, byteWave]

/-- The bytes of a transaction, after its `START`: the clock stays low from one to the next. -/
theorem State.writeBytes_eq (bytes : List Byte) (s : State) :
    ((bytes.foldl State.uopWriteByte s).uopStop) =
      { s with dio := true, clk := true, txn := .idle, tr := s.tr ++ bytes.flatMap byteWave ++ stopWave } := by
  induction bytes generalizing s with
  | nil => simp [State.uopStop_eq]
  | cons b rest ih => simp [ih, State.uopWriteByte_eq]

theorem State.dataTransaction_eq (s : State) (bytes : List Byte) :
    s.dataTransaction bytes =
      { s with dio := true, clk := true, txn := .idle, tr := s.tr ++ txnWave bytes, bl := s.bl ++ [bytes] } := by
  simp [State.dataTransaction, State.writeBytes_eq, State.uopStart_eq, State.logTxn, txnWave]

/-- R116: `COMMAND_SEQUENCE(c)` is the data transaction `[c]`. -/
theorem State.uopCommandSequence_eq_dataTransaction (s : State) (cmd : Byte) :
    s.uopCommandSequence cmd = s.dataTransaction [cmd] := rfl

theorem State.uopCommandSequence_eq (s : State) (cmd : Byte) :
    s.uopCommandSequence cmd =
      { s with dio := true, clk := true, txn := .idle, tr := s.tr ++ txnWave [cmd], bl := s.bl ++ [[cmd]] } := by
  rw [State.uopCommandSequence_eq_dataTransaction, State.dataTransaction_eq]

theorem State.sendDisplayControl_eq (s : State) :
    s.sendDisplayControl =
      { s with dio := true, clk := true, txn := .idle, tr := s.tr ++ txnWave [displayByte s.bright],
               bl := s.bl ++ [[displayByte s.bright]] } := State.uopCommandSequence_eq s _

/-- What is loaded into `SEGBUF` is what is read from it, up to its six entries (R29). -/
theorem State.bufferedSegs_loadSegs (s : State) (segs : List Byte) (h : segs.length ≤ 6) :
    (s.loadSegs segs).bufferedSegs = segs := by
  apply List.ext_getElem
  · simp [State.bufferedSegs, State.loadSegs]; omega
  · intro n h₁ h₂
    simp [State.bufferedSegs, State.loadSegs, List.getD_eq_getElem?_getD, List.getElem?_eq_getElem h₂]

/-! The encoder. -/

theorem encodeChars_length (str : List Byte) : (encodeChars str).1.length = str.length := by
  induction str with
  | nil => rfl
  | cons c rest ih => simp [encodeChars, ih]

theorem encodeString_length (str : List Byte) : (encodeString str).1.length = min str.length 4 := by
  simp [encodeString, encodeChars_length, Config.encMax]; omega

theorem withColon_length (colon : Bool) (vs : List Byte) : (withColon colon vs).length = vs.length := by
  unfold withColon; split <;> rfl

theorem withColon_false (vs : List Byte) : withColon false vs = vs := by
  unfold withColon withDot; split <;> simp

theorem shown_length (colon : Bool) (str : List Byte) : (withColon colon (encodeString str).1).length ≤ 6 := by
  rw [withColon_length, encodeString_length]; omega

/-! The bytes, as the claims spell them (R90 to R93). -/

theorem displayByte_eq (b : BitVec 3) : displayByte b = dispByte b := rfl

theorem addressByte_eq (pos : Byte) : addressByte pos = 0xC0 ||| pos := rfl

theorem cmdDataAuto_eq : Config.cmdDataAuto = 0x40 := rfl

theorem cmdDataFixed_eq : Config.cmdDataFixed = 0x44 := rfl

/-! The bodies of the `CTL` operations (42_display_controller.md). -/

theorem State.constructBody_eq (s : State) :
    s.constructBody =
      { s with clkId := s.x.clkId, dioId := s.x.dioId, clkDir := .out, dioDir := .out, clk := true, dio := true,
               bright := Config.defaultBrightness, constructed := true, txn := .idle,
               tr := s.tr ++ ([.cfg .clk, .cfg .dio, .set .clk false, .set .dio false] ++
                 logWave (brightTxns Config.defaultBrightness)),
               bl := s.bl ++ brightTxns Config.defaultBrightness } := by
  simp [State.constructBody, State.cfgLine, State.setLine, State.setBright, State.setConstructed,
    State.uopCommandSequence_eq, State.sendDisplayControl_eq, logWave, brightTxns,
    displayByte_eq, cmdDataAuto_eq]

theorem State.brightnessSetBody_eq (s : State) (v : Byte) :
    s.brightnessSetBody v =
      { s with bright := maskBright v, clk := true, dio := true, txn := .idle,
               tr := s.tr ++ ((if 7 < v.toNat then [Event.diag (.brightnessRange v)] else []) ++
                 logWave (brightTxns (maskBright v))),
               bl := s.bl ++ brightTxns (maskBright v) } := by
  by_cases h : 7 < v.toNat <;>
    simp [State.brightnessSetBody, State.raiseDiags, State.emit, State.setBright, h,
      State.uopCommandSequence_eq, State.sendDisplayControl_eq, logWave, brightTxns,
    displayByte_eq, cmdDataAuto_eq]

theorem State.writeBody_valid (s : State) (segs : List Byte) (pos : Byte) (hp : positionValid pos = true)
    (hl : segs.length ≤ 6) :
    s.writeBody segs pos =
      { s.loadSegs segs with clk := true, dio := true, txn := .idle,
                             tr := s.tr ++ logWave (autoTxns pos segs s.bright),
                             bl := s.bl ++ autoTxns pos segs s.bright } := by
  have hb := State.bufferedSegs_loadSegs s segs hl
  unfold State.bufferedSegs at hb
  simp only [State.writeBody, hp, if_true, State.uopCommandSequence_eq, State.dataTransaction_eq,
    State.sendDisplayControl_eq, State.bufferedSegs, hb]
  simp [logWave, autoTxns, displayByte_eq, addressByte_eq, cmdDataAuto_eq]

theorem State.writeBody_invalid (s : State) (segs : List Byte) (pos : Byte) (hp : positionValid pos = false) :
    s.writeBody segs pos = { s with tr := s.tr ++ [.diag (.positionRange pos)] } := by
  simp [State.writeBody, hp, State.raiseDiags, State.emit]

theorem State.showBody_eq (s : State) (str : List Byte) (colon : Bool) :
    s.showBody str colon =
      { s.loadSegs (withColon colon (encodeString str).1) with
          clk := true, dio := true, txn := .idle,
          tr := s.tr ++ ((encodeString str).2.map .diag ++
            logWave (autoTxns 0 (withColon colon (encodeString str).1) s.bright)),
          bl := s.bl ++ autoTxns 0 (withColon colon (encodeString str).1) s.bright } := by
  rw [State.showBody, State.writeBody_valid _ _ _ (by decide) (shown_length colon str)]
  simp [State.raiseDiags, State.emit, State.loadSegs]

theorem State.setRawBody_eq (s : State) (pos data : Byte) :
    s.setRawBody pos data =
      { s with clk := true, dio := true, txn := .idle, tr := s.tr ++ logWave (fixedTxns pos data s.bright),
               bl := s.bl ++ fixedTxns pos data s.bright } := by
  simp [State.setRawBody, State.uopCommandSequence_eq, State.dataTransaction_eq, State.sendDisplayControl_eq,
    logWave, fixedTxns, displayByte_eq, addressByte_eq, cmdDataFixed_eq]

theorem State.setCharBody_eq (s : State) (pos ch : Byte) (dot : Bool) :
    s.setCharBody pos ch dot =
      { s with clk := true, dio := true, txn := .idle,
               tr := s.tr ++ ((encodeChar ch).2.map .diag ++
                 logWave (fixedTxns pos (withDot dot (encodeChar ch).1) s.bright)),
               bl := s.bl ++ fixedTxns pos (withDot dot (encodeChar ch).1) s.bright } := by
  simp [State.setCharBody, State.setRawBody_eq, State.raiseDiags, State.emit]

theorem State.scrollRound_eq (delayMs : Half) (s : State) (c : Byte) :
    State.scrollRound delayMs s c =
      { (s.setWin (shiftWindow s.win c)).loadSegs (encodeString (shiftWindow s.win c).toList).1 with
          clk := true, dio := true, txn := .idle,
          tr := s.tr ++ roundWave delayMs (shiftWindow s.win c) s.bright,
          bl := s.bl ++ autoTxns 0 (encodeString (shiftWindow s.win c).toList).1 s.bright } := by
  simp [State.scrollRound, State.showBody_eq, withColon_false, State.sleep, State.emit, State.setWin, roundWave]

/-- A load that is not shorter than the one before it leaves nothing of it (R29). -/
theorem State.loadSegs_loadSegs (s : State) (a b : List Byte) (h : a.length ≤ b.length) :
    (s.loadSegs a).loadSegs b = s.loadSegs b := by
  have hv : (Vector.ofFn fun i : Fin 6 => b.getD i.val ((Vector.ofFn fun j : Fin 6 => a.getD j.val s.segbuf[j])[i])) =
      Vector.ofFn fun i : Fin 6 => b.getD i.val s.segbuf[i] := by
    ext i hi
    by_cases hb : i < b.length
    · simp [List.getD_eq_getElem?_getD, hb]
    · have ha : a.length ≤ i := by omega
      simp [List.getD_eq_getElem?_getD, ha]
  simp only [State.loadSegs, hv]

/-- All the rounds of a `SCROLL` of at least one character (R157). -/
theorem State.scrollRounds_eq (delayMs : Half) (str : List Byte) (s : State) (h : str ≠ []) :
    str.foldl (State.scrollRound delayMs) s =
      { (s.setWin (str.foldl shiftWindow s.win)).loadSegs (encodeString (str.foldl shiftWindow s.win).toList).1 with
          clk := true, dio := true, txn := .idle,
          tr := s.tr ++ (windows s.win str).flatMap (fun w => roundWave delayMs w s.bright),
          bl := s.bl ++ (windows s.win str).flatMap (fun w => autoTxns 0 (encodeString w.toList).1 s.bright) } := by
  induction str generalizing s with
  | nil => exact absurd rfl h
  | cons c rest ih =>
    rw [List.foldl_cons]
    by_cases hr : rest = []
    · subst hr; simp [State.scrollRound_eq, windows]
    · rw [ih _ hr, State.scrollRound_eq]
      have hl := State.loadSegs_loadSegs (s.setWin (shiftWindow s.win c))
        (encodeString (shiftWindow s.win c).toList).1
        (encodeString (rest.foldl shiftWindow (shiftWindow s.win c)).toList).1 (by simp [encodeString_length])
      simp only [State.loadSegs, State.setWin, State.mk.injEq] at hl ⊢
      simpa [windows] using hl

/-- `SCROLL` of at least one character (R157). -/
theorem State.scrollBody_eq (s : State) (str : List Byte) (delayMs : Half) (h : str ≠ []) :
    s.scrollBody str delayMs =
      { (s.setWin (str.foldl shiftWindow blankWindow)).loadSegs
          (encodeString (str.foldl shiftWindow blankWindow).toList).1 with
          clk := true, dio := true, txn := .idle,
          tr := s.tr ++ (windows blankWindow str).flatMap (fun w => roundWave delayMs w s.bright),
          bl := s.bl ++ (windows blankWindow str).flatMap (fun w => autoTxns 0 (encodeString w.toList).1 s.bright) } := by
  rw [State.scrollBody, State.scrollRounds_eq _ _ _ h]
  simp [State.setWin, State.loadSegs]

/-- `SCROLL` of the empty string: the window is set and nothing else happens (R157). -/
theorem State.scrollBody_nil (s : State) (delayMs : Half) : s.scrollBody [] delayMs = s.setWin blankWindow := rfl

end Sys2Proof.Machine
end

