-- ==== Sys2Proof/Laws/Port.lean ====
section
/-! SUPPORT. The handshake of the ports: when an operation is accepted, and what acceptance adds around its body. -/

namespace Sys2Proof.Machine

open Sys2Proof.Safety

theorem State.latch_of_not_busy (s : State) (i : Instr) (h : s.busy = false) :
    s.latch i = { s with x := latched i (Config.freeLatches s.fresh), fresh := s.fresh + 1 } := by
  simp [State.latch, h]

theorem State.latch_of_busy (s : State) (i : Instr) (h : s.busy = true) : s.latch i = s := by
  simp [State.latch, h]

theorem ctlStateCheck_none (op : CtlOp) (s : State) :
    ctlStateCheck op s = none ↔ s.busy = false ∧ (s.constructed = true ↔ op ≠ .construct) := by
  unfold ctlStateCheck
  cases op <;> cases s.busy <;> cases s.constructed <;> simp

/-- When the `CTL` port accepts (R83, R84, R60). -/
theorem ctlRefusal_none (op : CtlOp) (i : Instr) (s : State) :
    ctlRefusal op i s = none ↔
      i.illFormed = none ∧ s.busy = false ∧ (s.constructed = true ↔ op ≠ .construct) := by
  unfold ctlRefusal
  cases h : i.illFormed <;> simp [ctlStateCheck_none]

/-- Everything a `CTL` operation that answers a next state has done. -/
theorem runCtl_next {op : CtlOp} {i : Instr} {body : State → State} {s t : State}
    (h : runCtl op i body s = .next t) :
    (i.illFormed = none ∧ s.busy = false ∧ (s.constructed = true ↔ op ≠ .construct)) ∧
      t = (body (s.accept op i)).finish := by
  unfold runCtl at h
  split at h
  · cases h
  · next hr => exact ⟨(ctlRefusal_none op i s).1 hr, by cases h; rfl⟩

/-- A `CTL` operation that is accepted answers a next state. -/
theorem runCtl_of_accepted {op : CtlOp} {i : Instr} (body : State → State) {s : State} (hi : i.illFormed = none)
    (hb : s.busy = false) (hc : s.constructed = true ↔ op ≠ .construct) :
    runCtl op i body s = .next (body (s.accept op i)).finish := by
  simp [runCtl, (ctlRefusal_none op i s).2 ⟨hi, hb, hc⟩]

/-- Everything an `ENC` operation that answers a next state has done. -/
theorem runEnc_next {i : Instr} {body : State → State} {s t : State} (h : runEnc i body s = .next t) :
    i.illFormed = none ∧ t = body (s.latch i) := by
  unfold runEnc at h
  split at h
  · cases h
  · next hr => exact ⟨hr, by cases h; rfl⟩

theorem runEnc_of_wellFormed {i : Instr} (body : State → State) (s : State) (hi : i.illFormed = none) :
    runEnc i body s = .next (body (s.latch i)) := by
  simp [runEnc, hi]

/-- What is left of acceptance and end around a body's effect, when CORE was at rest before it (R60). -/
theorem State.accept_of_not_busy (s : State) (op : CtlOp) (i : Instr) (h : s.busy = false) :
    s.accept op i =
      { s with x := latched i (Config.freeLatches s.fresh), fresh := s.fresh + 1, busy := true,
               seq := { Seq.idle with op := some op } } := by
  simp [State.accept, State.latch_of_not_busy s i h]

theorem runCtl_ne_fault (op : CtlOp) (i : Instr) (body : State → State) (s : State) (f : Fault) :
    runCtl op i body s ≠ .fault f := by
  unfold runCtl; split <;> simp

theorem runEnc_ne_fault (i : Instr) (body : State → State) (s : State) (f : Fault) : runEnc i body s ≠ .fault f := by
  unfold runEnc; split <;> simp

end Sys2Proof.Machine
end

