-- ==== Sys2Proof/Laws/Exec.lean ====
section
/-! SUPPORT. What an operation can do, said once: its arm of exec, and, for an operation a host can issue, everything its next state
differs in. Invariants and whole-machine claims follow from `exec_did`. -/

namespace Sys2Proof.Machine

open Sys2Proof.Safety

/-! The arms. -/

variable (s : State)

theorem exec_construct (c d : Byte) :
    exec (.construct c d) s = runCtl .construct (.construct c d) State.constructBody s := rfl
theorem exec_brightnessGet :
    exec .brightnessGet s = runCtl .brightnessGet .brightnessGet State.brightnessGetBody s := rfl
theorem exec_brightnessSet (v : Byte) :
    exec (.brightnessSet v) s = runCtl .brightnessSet (.brightnessSet v) (fun s => s.brightnessSetBody s.x.v) s := rfl
theorem exec_write (pos : Byte) (segs : List Byte) :
    exec (.write pos segs) s = runCtl .write (.write pos segs) (fun s => s.writeBody s.x.segs s.x.pos) s := rfl
theorem exec_showText (colon : Bool) (str : List Byte) :
    exec (.showText colon str) s =
      runCtl .showText (.showText colon str) (fun s => s.showBody s.x.s s.x.flag) s := rfl
theorem exec_setRaw (pos data : Byte) :
    exec (.setRaw pos data) s = runCtl .setRaw (.setRaw pos data) (fun s => s.setRawBody s.x.pos s.x.data) s := rfl
theorem exec_setChar (pos ch : Byte) (dot : Bool) :
    exec (.setChar pos ch dot) s =
      runCtl .setChar (.setChar pos ch dot) (fun s => s.setCharBody s.x.pos s.x.ch s.x.flag) s := rfl
theorem exec_scroll (d : Half) (str : List Byte) :
    exec (.scroll d str) s = runCtl .scroll (.scroll d str) (fun s => s.scrollBody s.x.s s.x.delayMs) s := rfl

theorem exec_encodeDigit (d : Byte) :
    exec (.encodeDigit d) s =
      runEnc (.encodeDigit d) (fun s => s.reply (.seg (encodeDigit d).1 (encodeDigit d).2)) s := rfl
theorem exec_encodeChar (c : Byte) :
    exec (.encodeChar c) s = runEnc (.encodeChar c) (fun s => s.reply (.seg (encodeChar c).1 (encodeChar c).2)) s := rfl
theorem exec_encodeString (str : List Byte) :
    exec (.encodeString str) s =
      runEnc (.encodeString str) (fun s => s.reply (.segs (encodeString str).1 (encodeString str).2)) s := rfl
theorem exec_hex (v : Half) :
    exec (.hex v) s = runEnc (.hex v) (fun s => (s.setFmt (hexChars v)).replyFmt) s := rfl
theorem exec_number (v : Half) :
    exec (.number v) s = runEnc (.number v) (fun s => (s.setFmt (numberChars v)).replyFmt) s := rfl
theorem exec_start : exec .start s = .next s.uopStart := rfl
theorem exec_stop : exec .stop s = .next s.uopStop := rfl
theorem exec_writeByte (b : Byte) : exec (.writeByte b) s = .next (s.uopWriteByte b) := rfl
theorem exec_commandSequence (c : Byte) : exec (.commandSequence c) s = .next (s.uopCommandSequence c) := rfl
theorem exec_busDataAutoinc : exec .busDataAutoinc s = .next (s.dataTransaction [0x40]) := rfl
theorem exec_busDataFixed : exec .busDataFixed s = .next (s.dataTransaction [0x44]) := rfl
theorem exec_busDisplayCtrl (b : BitVec 3) :
    exec (.busDisplayCtrl b) s = .next (s.dataTransaction [dispByte b]) := rfl
theorem exec_busAddress (p : BitVec 3) :
    exec (.busAddress p) s = .next (s.dataTransaction [0xC0 ||| p.zeroExtend 8]) := rfl

/-! What an operation appends and leaves. -/

/-- The events an operation of a port appends to `TR`, when `BRIGHT` is `b` before it. -/
def appendedEvents (i : Instr) (b : BitVec 3) : List Event :=
  match i with
  | .construct _ _ =>
    [.cfg .clk, .cfg .dio, .set .clk false, .set .dio false] ++ logWave (brightTxns Config.defaultBrightness)
  | .brightnessSet v =>
    (if 7 < v.toNat then [Event.diag (.brightnessRange v)] else []) ++ logWave (brightTxns (maskBright v))
  | .write pos segs => if positionValid pos then logWave (autoTxns pos segs b) else [.diag (.positionRange pos)]
  | .showText colon str =>
    (encodeString str).2.map .diag ++ logWave (autoTxns 0 (withColon colon (encodeString str).1) b)
  | .setRaw pos data => logWave (fixedTxns pos data b)
  | .setChar pos ch dot =>
    (encodeChar ch).2.map .diag ++ logWave (fixedTxns pos (withDot dot (encodeChar ch).1) b)
  | .scroll d str => (windows blankWindow str).flatMap (fun w => roundWave d w b)
  | _ => []

/-- The transactions an operation of a port appends to `BL`, when `BRIGHT` is `b` before it. -/
def appendedTxns (i : Instr) (b : BitVec 3) : List (List Byte) :=
  match i with
  | .construct _ _ => brightTxns Config.defaultBrightness
  | .brightnessSet v => brightTxns (maskBright v)
  | .write pos segs => if positionValid pos then autoTxns pos segs b else []
  | .showText colon str => autoTxns 0 (withColon colon (encodeString str).1) b
  | .setRaw pos data => fixedTxns pos data b
  | .setChar pos ch dot => fixedTxns pos (withDot dot (encodeChar ch).1) b
  | .scroll _ str => (windows blankWindow str).flatMap (fun w => autoTxns 0 (encodeString w.toList).1 b)
  | _ => []

/-- `BRIGHT` after an operation. -/
def brightAfter (i : Instr) (b : BitVec 3) : BitVec 3 :=
  match i with
  | .construct _ _ => Config.defaultBrightness
  | .brightnessSet v => maskBright v
  | _ => b

/-- What an operation of a port gives back, when `BRIGHT` is `b`. -/
def repliesOf (i : Instr) (b : BitVec 3) : List Reply :=
  match i with
  | .brightnessGet => [.byte (b.zeroExtend 8)]
  | .encodeDigit d => [.seg (encodeDigit d).1 (encodeDigit d).2]
  | .encodeChar c => [.seg (encodeChar c).1 (encodeChar c).2]
  | .encodeString str => [.segs (encodeString str).1 (encodeString str).2]
  | .hex v => [.segs (encodeString (hexChars v).toList).1 (encodeString (hexChars v).toList).2]
  | .number v => [.segs (encodeString (numberChars v).toList).1 (encodeString (numberChars v).toList).2]
  | _ => []

/-- Whether an operation is `CONSTRUCT`. -/
def isConstruct : Instr → Bool
  | .construct _ _ => true
  | _ => false

/-- Everything in which the next state of an operation of a port differs from the state before. -/
structure Did (i : Instr) (s t : State) : Prop where
  wf : i.illFormed = none
  tr : t.tr = s.tr ++ appendedEvents i s.bright
  bl : t.bl = s.bl ++ appendedTxns i s.bright
  bright : t.bright = brightAfter i s.bright
  replies : t.replies = s.replies ++ repliesOf i s.bright
  inbox : t.inbox = s.inbox
  /-- `CONSTRUCT` needs `CONSTRUCTED = 0`, sets it, and binds the lines -/
  con : isConstruct i = true → s.constructed = false ∧ t.constructed = true ∧ t.clkDir = .out ∧ t.dioDir = .out ∧
    t.clk = true ∧ t.dio = true ∧ i = .construct t.clkId t.dioId ∧ t.clkId ≠ t.dioId
  /-- the others leave all of that alone; an operation of the `CTL` port needs `CONSTRUCTED = 1` -/
  other : isConstruct i = false → t.constructed = s.constructed ∧ t.clkDir = s.clkDir ∧ t.dioDir = s.dioDir ∧
    t.clkId = s.clkId ∧ t.dioId = s.dioId ∧ (i.source = .ctl → s.constructed = true) ∧
    (t.clk = true ∧ t.dio = true ∨ t.clk = s.clk ∧ t.dio = s.dio)
  /-- an operation of the `CTL` port is accepted when not busy, and ends with CORE at rest -/
  ctl : i.source = .ctl → s.busy = false ∧ atRest t
  /-- an operation of the `ENC` port changes none of that, and appends nothing -/
  enc : i.source = .enc → t.busy = s.busy ∧ t.txn = s.txn ∧ t.seq = s.seq ∧ t.tr = s.tr ∧ t.bl = s.bl ∧
    t.seglen = s.seglen
  seglen : s.seglen ≤ 6 → t.seglen ≤ 6

theorem write_length {pos : Byte} {segs : List Byte} (h : (Instr.write pos segs).illFormed = none) :
    segs.length ≤ 6 := by
  by_contra hc
  have : Config.maxTxnData < segs.length := by simpa [Config.maxTxnData] using hc
  simp [Instr.illFormed, this] at h

/-- Everything an operation a host can issue does when it answers a next state. -/
theorem exec_did {i : Instr} {s t : State} (hi : hostInstr i) (h : exec i s = .next t) : Did i s t := by
  cases i with
  | construct c d =>
    rw [exec_construct] at h
    obtain ⟨⟨hw, hb, hc⟩, rfl⟩ := runCtl_next h
    have hne : c ≠ d := by rintro rfl; simp [Instr.illFormed] at hw
    have hc : s.constructed = false := by simpa using hc
    constructor <;> simp [hw, hb, hc, hne, State.constructBody_eq, State.finish, State.accept_of_not_busy, appendedEvents,
      appendedTxns, brightAfter, repliesOf, isConstruct, Instr.source, latched, atRest]
  | brightnessGet =>
    rw [exec_brightnessGet] at h
    obtain ⟨⟨hw, hb, hc⟩, rfl⟩ := runCtl_next h
    have hc : s.constructed = true := by simpa using hc
    constructor <;> simp [hw, hb, hc, State.brightnessGetBody, State.reply, State.finish, State.accept_of_not_busy,
      appendedEvents, appendedTxns, brightAfter, repliesOf, isConstruct, Instr.source, atRest]
  | brightnessSet v =>
    rw [exec_brightnessSet] at h
    obtain ⟨⟨hw, hb, hc⟩, rfl⟩ := runCtl_next h
    have hc : s.constructed = true := by simpa using hc
    constructor <;> simp [hw, hb, hc, State.brightnessSetBody_eq, State.finish, State.accept_of_not_busy,
      appendedEvents, appendedTxns, brightAfter, repliesOf, isConstruct, Instr.source, latched, atRest]
  | write pos segs =>
    rw [exec_write] at h
    obtain ⟨⟨hw, hb, hc⟩, rfl⟩ := runCtl_next h
    have hc : s.constructed = true := by simpa using hc
    have hl := write_length hw
    cases hp : positionValid pos
    · constructor <;> simp [hw, hb, hc, hp, State.writeBody_invalid, State.finish, State.accept_of_not_busy,
        appendedEvents, appendedTxns, brightAfter, repliesOf, isConstruct, Instr.source, latched, atRest]
    · constructor <;> simp [hw, hb, hc, hp, hl, State.writeBody_valid, State.finish, State.accept_of_not_busy,
        State.loadSegs, appendedEvents, appendedTxns, brightAfter, repliesOf, isConstruct, Instr.source, latched, atRest]
  | showText colon str =>
    rw [exec_showText] at h
    obtain ⟨⟨hw, hb, hc⟩, rfl⟩ := runCtl_next h
    have hc : s.constructed = true := by simpa using hc
    have hl := shown_length colon str
    constructor <;> simp [hw, hb, hc, hl, State.showBody_eq, State.finish, State.accept_of_not_busy, State.loadSegs,
      appendedEvents, appendedTxns, brightAfter, repliesOf, isConstruct, Instr.source, latched, atRest]
  | setRaw pos data =>
    rw [exec_setRaw] at h
    obtain ⟨⟨hw, hb, hc⟩, rfl⟩ := runCtl_next h
    have hc : s.constructed = true := by simpa using hc
    constructor <;> simp [hw, hb, hc, State.setRawBody_eq, State.finish, State.accept_of_not_busy,
      appendedEvents, appendedTxns, brightAfter, repliesOf, isConstruct, Instr.source, latched, atRest]
  | setChar pos ch dot =>
    rw [exec_setChar] at h
    obtain ⟨⟨hw, hb, hc⟩, rfl⟩ := runCtl_next h
    have hc : s.constructed = true := by simpa using hc
    constructor <;> simp [hw, hb, hc, State.setCharBody_eq, State.finish, State.accept_of_not_busy,
      appendedEvents, appendedTxns, brightAfter, repliesOf, isConstruct, Instr.source, latched, atRest]
  | scroll d str =>
    rw [exec_scroll] at h
    obtain ⟨⟨hw, hb, hc⟩, rfl⟩ := runCtl_next h
    have hc : s.constructed = true := by simpa using hc
    by_cases hs : str = []
    · subst hs
      constructor <;> simp [hw, hb, hc, State.scrollBody_nil, State.setWin, State.finish, State.accept_of_not_busy,
        windows, appendedEvents, appendedTxns, brightAfter, repliesOf, isConstruct, Instr.source, latched, atRest]
    · have hl : ∀ w : Vector Byte 4, (encodeString w.toList).1.length ≤ 6 := fun w => by
        rw [encodeString_length]; omega
      constructor <;> simp [hw, hb, hc, hs, hl, State.scrollBody_eq, State.setWin, State.loadSegs, State.finish,
        State.accept_of_not_busy, appendedEvents, appendedTxns, brightAfter, repliesOf, isConstruct, Instr.source, latched,
        atRest]
  | encodeDigit d =>
    rw [exec_encodeDigit] at h
    obtain ⟨hw, rfl⟩ := runEnc_next h
    constructor <;> simp [hw, appendedEvents, appendedTxns, brightAfter, repliesOf, isConstruct, Instr.source]
  | encodeChar c =>
    rw [exec_encodeChar] at h
    obtain ⟨hw, rfl⟩ := runEnc_next h
    constructor <;> simp [hw, appendedEvents, appendedTxns, brightAfter, repliesOf, isConstruct, Instr.source]
  | encodeString str =>
    rw [exec_encodeString] at h
    obtain ⟨hw, rfl⟩ := runEnc_next h
    constructor <;> simp [hw, appendedEvents, appendedTxns, brightAfter, repliesOf, isConstruct, Instr.source]
  | hex v =>
    rw [exec_hex] at h
    obtain ⟨hw, rfl⟩ := runEnc_next h
    constructor <;>
      simp [hw, State.replyFmt, appendedEvents, appendedTxns, brightAfter, repliesOf, isConstruct, Instr.source]
  | number v =>
    rw [exec_number] at h
    obtain ⟨hw, rfl⟩ := runEnc_next h
    constructor <;>
      simp [hw, State.replyFmt, appendedEvents, appendedTxns, brightAfter, repliesOf, isConstruct, Instr.source]
  | start => rcases hi with hi | hi <;> cases hi
  | stop => rcases hi with hi | hi <;> cases hi
  | writeByte b => rcases hi with hi | hi <;> cases hi
  | commandSequence c => rcases hi with hi | hi <;> cases hi
  | busDataAutoinc => rcases hi with hi | hi <;> cases hi
  | busDataFixed => rcases hi with hi | hi <;> cases hi
  | busDisplayCtrl b => rcases hi with hi | hi <;> cases hi
  | busAddress p => rcases hi with hi | hi <;> cases hi

/-- Everything a micro-operation or a bus command byte does: the lines, `TXN`, and what it appends. -/
theorem exec_internal {i : Instr} {s t : State} (hi : ¬ hostInstr i) (h : exec i s = .next t) :
    ∃ es bs, t.tr = s.tr ++ es ∧ t.bl = s.bl ++ bs ∧
      t = { s with clk := t.clk, dio := t.dio, txn := t.txn, tr := t.tr, bl := t.bl } := by
  cases i <;> (try (exact absurd (.inl rfl) hi)) <;> (try (exact absurd (.inr rfl) hi))
  · rw [exec_start, State.uopStart_eq] at h; cases h; exact ⟨_, [], rfl, by simp, rfl⟩
  · rw [exec_stop, State.uopStop_eq] at h; cases h; exact ⟨_, [], rfl, by simp, rfl⟩
  · rw [exec_writeByte, State.uopWriteByte_eq] at h; cases h; exact ⟨_, [], rfl, by simp, rfl⟩
  · rw [exec_commandSequence, State.uopCommandSequence_eq] at h; cases h; exact ⟨_, _, rfl, rfl, rfl⟩
  · rw [exec_busDataAutoinc, State.dataTransaction_eq] at h; cases h; exact ⟨_, _, rfl, rfl, rfl⟩
  · rw [exec_busDataFixed, State.dataTransaction_eq] at h; cases h; exact ⟨_, _, rfl, rfl, rfl⟩
  · rw [exec_busDisplayCtrl, State.dataTransaction_eq] at h; cases h; exact ⟨_, _, rfl, rfl, rfl⟩
  · rw [exec_busAddress, State.dataTransaction_eq] at h; cases h; exact ⟨_, _, rfl, rfl, rfl⟩

/-- What the decoder reads from a host's packet is an instruction a host can issue (R80). -/
theorem decode_fromHost {p : Packet} {i : Instr} (hp : p.fromHost = true) (h : decode p = .ok i) : hostInstr i := by
  obtain ⟨src, bytes⟩ := p
  unfold decode at h
  cases bytes with
  | nil => cases h
  | cons op rest =>
    have hm : ∀ {α : Type} {e : Except Check α} {f : α → Instr}, e.map f = .ok i → ∃ a, i = f a := by
      intro α e f he
      cases e with
      | error c => cases he
      | ok a => cases he; exact ⟨a, rfl⟩
    cases src
    · left
      simp only [decodeCtl] at h
      split at h
      all_goals (try split at h)
      all_goals first
        | (cases h <;> rfl)
        | (obtain ⟨a, rfl⟩ := hm h; rfl)
        | skip
      next colon lo hi str =>
        cases hs : decodeSeq (u16 lo hi).toNat str with
        | error c => rw [hs] at h; cases h
        | ok a => rw [hs] at h; obtain ⟨f, rfl⟩ := hm (e := decodeFlag colon) h; rfl
    · right
      simp only [decodeEnc] at h
      split at h
      all_goals (try split at h)
      all_goals first
        | (cases h <;> rfl)
        | (obtain ⟨a, rfl⟩ := hm h; rfl)
    · cases hp
    · cases hp

/-- Everything a step of a host's packet does: nothing is issued, or an operation of a port runs. -/
theorem step_did {s t : State} (hs : hostInbox s) (h : step s = .next t) :
    (s.inbox = [] ∧ t = s) ∨
      ∃ p rest i, s.inbox = p :: rest ∧ hostInstr i ∧ exec i { s with inbox := rest } = .next t ∧
        Did i { s with inbox := rest } t := by
  unfold step issueNext at h
  split at h
  · next hn => cases h; exact .inl ⟨hn, rfl⟩
  · next p rest hp =>
    right
    unfold runPacket at h
    split at h
    · cases h
    · next i hd =>
      have hi := decode_fromHost (hs p (by simp [hp])) hd
      exact ⟨p, rest, i, hp, hi, h, exec_did hi h⟩

end Sys2Proof.Machine
end

