-- ==== Sys2Proof/Laws/Instances.lean ====
section
/-! SUPPORT. What a step of several instances can do (R196), and which configurations it keeps valid. -/

namespace Sys2Proof.Machine

open Sys2Proof.Safety

theorem disjointLines_comm (a b : State) : disjointLines a b = disjointLines b a := by
  rw [Bool.eq_iff_iff]
  simp only [disjointLines, Bool.or_eq_true, Bool.not_eq_true', Bool.and_eq_false_iff, Bool.and_eq_true, bne_iff_ne]
  grind

/-- Disjointness depends on what `CONSTRUCT` writes alone. -/
theorem disjointLines_congr {a t : State} (hc : t.constructed = a.constructed) (hk : t.clkId = a.clkId)
    (hd : t.dioId = a.dioId) (b : State) : disjointLines t b = disjointLines a b := by
  rw [disjointLines, disjointLines, hc, hk, hd]

/-- Only `CONSTRUCT` writes `CONSTRUCTED` and the line identifiers (R26, R27). -/
theorem exec_keeps_lines {i : Instr} {s t : State} (h : exec i s = .next t) (hi : isConstruct i = false) :
    t.constructed = s.constructed ∧ t.clkId = s.clkId ∧ t.dioId = s.dioId := by
  by_cases hh : hostInstr i
  · obtain ⟨hc, _, _, hk, hd, _⟩ := (exec_did hh h).other hi
    exact ⟨hc, hk, hd⟩
  · obtain ⟨_, _, _, _, ht⟩ := exec_internal hh h
    rw [ht]
    exact ⟨rfl, rfl, rfl⟩

/-- An instance that changes keeps a valid configuration valid exactly when its lines are disjoint from those of every other. -/
theorem validConfiguration_set {cs : List State} (hv : validConfiguration cs) (k : Fin cs.length) (t : State) :
    validConfiguration (cs.set k t) ↔ ∀ j : Fin cs.length, j ≠ k → disjointLines t cs[j] = true := by
  simp only [validConfiguration, List.pairwise_iff_getElem, List.length_set] at hv ⊢
  constructor
  · intro h j hj
    rcases Nat.lt_or_gt_of_ne (Fin.val_ne_of_ne hj) with hlt | hlt
    · have := h j k j.2 k.2 hlt
      rw [List.getElem_set_self, List.getElem_set_ne (by omega)] at this
      rw [disjointLines_comm]; exact this
    · have := h k j k.2 j.2 hlt
      rwa [List.getElem_set_self, List.getElem_set_ne (by omega)] at this
  · intro h i j hi hj hij
    by_cases hki : k.val = i
    · subst hki
      rw [List.getElem_set_self, List.getElem_set_ne (by omega)]
      exact h ⟨j, hj⟩ (by intro he; rw [← he] at hij; exact Nat.lt_irrefl _ hij)
    · by_cases hkj : k.val = j
      · subst hkj
        rw [List.getElem_set_self, List.getElem_set_ne hki, disjointLines_comm]
        exact h ⟨i, hi⟩ (by intro he; rw [← he] at hij; exact Nat.lt_irrefl _ hij)
      · rw [List.getElem_set_ne hki, List.getElem_set_ne hkj]
        exact hv i j hi hj hij

/-- Everything a step of several instances has done when it answers a next configuration. -/
theorem stepInstance_next {cs cs' : List State} {k : Fin cs.length} (h : stepInstance cs k = .next cs') :
    validConfiguration cs ∧ ∃ t, step cs[k] = .next t ∧ cs' = cs.set k t ∧ validConfiguration cs' := by
  unfold stepInstance at h
  split at h
  · next hv =>
    split at h
    · next t ht =>
      split at h
      · next hv' => cases h; exact ⟨hv, t, ht, rfl, hv'⟩
      · cases h
    · cases h
    · cases h
  · cases h

/-- When instance `k` answers a next state, whether the configuration goes on depends on its lines alone. -/
theorem stepInstance_of_next {cs : List State} {k : Fin cs.length} {t : State} (hv : validConfiguration cs)
    (h : step cs[k] = .next t) :
    stepInstance cs k = if validConfiguration (cs.set k t) then .next (cs.set k t) else .refused .sharedLine := by
  simp only [stepInstance, if_pos hv, h]

/-- No instance has bound a line at power-on (R34). -/
theorem powerOnInstances_valid (n : Nat) : validConfiguration (powerOnInstances n) :=
  List.pairwise_replicate.2 (.inr rfl)

end Sys2Proof.Machine
end

