-- ==== Sys2Proof/Laws/PerInstr.lean ====
section
/-! SUPPORT. The statements made for each constructor of Instr (LAWS.json): decoding an instruction's packet gives it back. -/

namespace Sys2Proof.Laws.RoundTrip

/-- The packet of a well-formed instruction decodes to it (R81, R82, R90 to R93). -/
def Statement (i : Instr) : Prop := i.wellFormed = true → decode (encode i) = .ok i

theorem construct (clkId dioId : Byte) : Statement (.construct clkId dioId) := fun _ => rfl

theorem brightnessGet : Statement .brightnessGet := fun _ => rfl

theorem brightnessSet (v : Byte) : Statement (.brightnessSet v) := fun _ => rfl

theorem write (pos : Byte) (segments : List Byte) : Statement (.write pos segments) := by
  intro h
  have hl : segments.length ≤ 6 := by
    by_contra hc
    have : Config.maxTxnData < segments.length := by simpa [Config.maxTxnData] using hc
    simp [Instr.wellFormed, Instr.illFormed, this] at h
  show (decodeSeq _ segments).map _ = _
  rw [decodeSeq_u8 segments hl]; rfl

theorem showText (colon : Bool) (str : List Byte) : Statement (.showText colon str) := by
  intro h
  have hl := (strCheck_none (str := str) (by simpa [Instr.wellFormed, Instr.illFormed] using h)).1
  show (decodeSeq _ str).bind (fun str => (decodeFlag (encodeFlag colon)).map fun f => Instr.showText f str) = _
  rw [decodeSeq_u16 str hl, decodeFlag_encodeFlag]; rfl

theorem setRaw (pos data : Byte) : Statement (.setRaw pos data) := fun _ => rfl

theorem setChar (pos ch : Byte) (dot : Bool) : Statement (.setChar pos ch dot) := by
  intro _
  show (decodeFlag (encodeFlag dot)).map _ = _
  rw [decodeFlag_encodeFlag]; rfl

theorem scroll (delayMs : Half) (str : List Byte) : Statement (.scroll delayMs str) := by
  intro h
  have hl := (strCheck_none (str := str) (by simpa [Instr.wellFormed, Instr.illFormed] using h)).1
  show (decodeSeq _ str).map (Instr.scroll (u16 (loByte delayMs) (hiByte delayMs))) = _
  rw [decodeSeq_u16 str hl, u16_loByte_hiByte]; rfl

theorem encodeDigit (d : Byte) : Statement (.encodeDigit d) := fun _ => rfl

theorem encodeChar (c : Byte) : Statement (.encodeChar c) := fun _ => rfl

theorem encodeString (str : List Byte) : Statement (.encodeString str) := by
  intro h
  have hl := (strCheck_none (str := str) (by simpa [Instr.wellFormed, Instr.illFormed] using h)).1
  show (decodeSeq _ str).map _ = _
  rw [decodeSeq_u16 str hl]; rfl

theorem hex (value : Half) : Statement (.hex value) := by
  intro _
  show Except.ok (Instr.hex (u16 (loByte value) (hiByte value))) = _
  rw [u16_loByte_hiByte]

theorem number (value : Half) : Statement (.number value) := by
  intro _
  show Except.ok (Instr.number (u16 (loByte value) (hiByte value))) = _
  rw [u16_loByte_hiByte]

theorem start : Statement .start := fun _ => rfl

theorem stop : Statement .stop := fun _ => rfl

theorem writeByte (b : Byte) : Statement (.writeByte b) := fun _ => rfl

theorem commandSequence (cmd : Byte) : Statement (.commandSequence cmd) := fun _ => rfl

theorem busDataAutoinc : Statement .busDataAutoinc := fun _ => rfl

theorem busDataFixed : Statement .busDataFixed := fun _ => rfl

theorem busDisplayCtrl (b : BitVec 3) : Statement (.busDisplayCtrl b) := by
  have h : ∀ b : BitVec 3, decode (encode (.busDisplayCtrl b)) = .ok (.busDisplayCtrl b) := by decide
  exact fun _ => h b

theorem busAddress (p : BitVec 3) : Statement (.busAddress p) := by
  have h : ∀ p : BitVec 3, decode (encode (.busAddress p)) = .ok (.busAddress p) := by decide
  exact fun _ => h p

end Sys2Proof.Laws.RoundTrip
end

