-- ==== Sys2Proof/Laws/Waves.lean ====
section
/-! SUPPORT. Laws of the readings of a trace (counts, line events, levels) over the waveforms, and of the encoder's strings. -/

namespace Sys2Proof.Safety

open Sys2Proof.Machine

/-! The encoder's strings (R134) as maps. -/

theorem encodeChars_eq (l : List Byte) :
    encodeChars l = (l.map fun c => (encodeChar c).1, l.flatMap fun c => (encodeChar c).2) := by
  induction l with
  | nil => rfl
  | cons c r ih => simp [encodeChars, ih]

theorem encodeString_eq (l : List Byte) :
    encodeString l = ((l.take 4).map fun c => (encodeChar c).1, (l.take 4).flatMap fun c => (encodeChar c).2) := by
  rw [encodeString, encodeChars_eq]; rfl

theorem encodeString_window (w : Vector Byte 4) :
    encodeString w.toList = (w.toList.map fun c => (encodeChar c).1, w.toList.flatMap fun c => (encodeChar c).2) := by
  rw [encodeString_eq, List.take_of_length_le (by simp)]

/-- A character gives at most one diagnostic (R133). -/
theorem encodeChar_diags (c : Byte) : (encodeChar c).2.length ≤ 1 := by
  unfold encodeChar; repeat' split
  all_goals simp

theorem encodeString_diags (l : List Byte) : (encodeString l).2.length ≤ min l.length 4 := by
  have h : ∀ l : List Byte, (encodeChars l).2.length ≤ l.length := by
    intro l
    induction l with
    | nil => simp [encodeChars]
    | cons c r ih => have := encodeChar_diags c; simp [encodeChars]; omega
  simpa [encodeString, Config.encMax, Nat.min_comm] using h (l.take 4)

/-! The windows of `SCROLL` (R157). -/

theorem windows_length (w : Vector Byte 4) (l : List Byte) : (windows w l).length = l.length := by
  induction l generalizing w with
  | nil => rfl
  | cons c r ih => simp [windows, ih]

theorem shiftWindow_toList (w : Vector Byte 4) (c : Byte) : (shiftWindow w c).toList = (w.toList ++ [c]).drop 1 := by
  obtain ⟨⟨l⟩, hl⟩ := w
  match l, hl with
  | [a, b, x, y], _ => rfl

theorem foldl_shiftWindow (str : List Byte) (w : Vector Byte 4) :
    (str.foldl shiftWindow w).toList = (w.toList ++ str).drop str.length := by
  induction str generalizing w with
  | nil => simp
  | cons c r ih =>
    rw [List.foldl_cons, ih, shiftWindow_toList]
    obtain ⟨⟨l⟩, hl⟩ := w
    match l, hl with
    | [a, b, x, y], _ => simp

theorem windows_toList (str : List Byte) (w : Vector Byte 4) :
    (windows w str).map Vector.toList = (List.range str.length).map fun k => ((w.toList ++ str).drop (k + 1)).take 4 := by
  induction str generalizing w with
  | nil => rfl
  | cons c r ih =>
    rw [windows, List.map_cons, ih, shiftWindow_toList, List.length_cons, List.range_succ_eq_map, List.map_cons, List.map_map]
    obtain ⟨⟨l⟩, hl⟩ := w
    match l, hl with
    | [a, b, x, y], _ => simp

/-! Counts (R159). -/

/-- Counts add. -/
def addCounts (a b : Nat × Nat × Nat × Nat × Nat) : Nat × Nat × Nat × Nat × Nat :=
  (a.1 + b.1, a.2.1 + b.2.1, a.2.2.1 + b.2.2.1, a.2.2.2.1 + b.2.2.2.1, a.2.2.2.2 + b.2.2.2.2)

theorem counts_append (a b : List Event) : counts (a ++ b) = addCounts (counts a) (counts b) := by
  simp [counts, addCounts, List.countP_append]

theorem counts_bytes (bs : List Byte) : counts (bs.flatMap byteWave) = (0, 27 * bs.length, 27 * bs.length, 0, 0) := by
  induction bs with
  | nil => rfl
  | cons b r ih =>
    rw [List.flatMap_cons, counts_append, ih, show counts (byteWave b) = (0, 27, 27, 0, 0) from rfl]
    simp [addCounts]; omega

theorem counts_txn (bs : List Byte) : counts (txnWave bs) = (0, 5 + 27 * bs.length, 5 + 27 * bs.length, 0, 0) := by
  rw [txnWave, counts_append, counts_append, counts_bytes, show counts startWave = (0, 2, 2, 0, 0) from rfl,
    show counts stopWave = (0, 3, 3, 0, 0) from rfl]
  simp [addCounts]; omega

theorem counts_log (bl : List (List Byte)) :
    counts (logWave bl) =
      (0, (bl.map fun t => 5 + 27 * t.length).sum, (bl.map fun t => 5 + 27 * t.length).sum, 0, 0) := by
  induction bl with
  | nil => rfl
  | cons t r ih =>
    rw [show logWave (t :: r) = txnWave t ++ logWave r from rfl, counts_append, counts_txn, ih]; simp [addCounts]

theorem counts_diags (ds : List Diag) : counts (ds.map Event.diag) = (0, 0, 0, 0, ds.length) := by
  induction ds with
  | nil => rfl
  | cons d r ih =>
    rw [List.map_cons, ← List.singleton_append, counts_append, ih]
    simp [addCounts, counts, isCfg, isSet, isDelay, isSleep, isDiag]; omega

theorem counts_round (d : Half) (w : Vector Byte 4) (b : BitVec 3) :
    ∃ m ≤ 4, counts (roundWave d w b) = (0, 204, 204, 1, m) := by
  have h := encodeString_diags w.toList
  refine ⟨(encodeString w.toList).2.length, by simp at h ⊢; omega, ?_⟩
  show counts (([Event.sleep d] ++ _) ++ _) = _
  rw [counts_append, counts_append, counts_diags, counts_log, show counts [Event.sleep d] = (0, 0, 0, 1, 0) from rfl]
  simp [addCounts, autoTxns, encodeString_length]

theorem sleepMilliseconds_append (a b : List Event) :
    sleepMilliseconds (a ++ b) = sleepMilliseconds a + sleepMilliseconds b := by
  fun_induction sleepMilliseconds a <;> simp_all [sleepMilliseconds]; omega

theorem sleepMilliseconds_of_no_sleep (a : List Event) (h : a.countP isSleep = 0) : sleepMilliseconds a = 0 := by
  fun_induction sleepMilliseconds a <;> simp_all [isSleep]

/-! Line events (R68). -/

theorem filter_log (bl : List (List Byte)) : (logWave bl).filter isLineEvent = logWave bl := by
  have h : ∀ bs : List Byte, (bs.flatMap byteWave).filter isLineEvent = bs.flatMap byteWave := by
    intro bs
    induction bs with
    | nil => rfl
    | cons b r ih => rw [List.flatMap_cons, List.filter_append, ih]; rfl
  induction bl with
  | nil => rfl
  | cons t r ih =>
    rw [show logWave (t :: r) = txnWave t ++ logWave r from rfl, List.filter_append, ih, txnWave, List.filter_append,
      List.filter_append, h]
    rfl

theorem filter_diags (ds : List Diag) : (ds.map Event.diag).filter isLineEvent = [] := by
  induction ds with
  | nil => rfl
  | cons d r ih => exact ih

theorem all_log (bl : List (List Byte)) : (logWave bl).all isLineEvent = true := by
  rw [← List.filter_eq_self.trans List.all_eq_true.symm, filter_log]

theorem logWave_append (a b : List (List Byte)) : logWave (a ++ b) = logWave a ++ logWave b := by simp [logWave]

/-! Levels and delays along a trace (R114, R117). -/

theorem levelsAfter_append (a b : List Event) (c d : Bool) :
    levelsAfter c d (a ++ b) = levelsAfter (levelsAfter c d a).1 (levelsAfter c d a).2 b := by
  fun_induction levelsAfter c d a <;> simp_all [levelsAfter]

theorem dioChanges_append (a b : List Event) (c d : Bool) :
    dioChangesUnderHighClk c d (a ++ b) =
      dioChangesUnderHighClk c d a + dioChangesUnderHighClk (levelsAfter c d a).1 (levelsAfter c d a).2 b := by
  fun_induction dioChangesUnderHighClk c d a <;> simp_all [levelsAfter, dioChangesUnderHighClk]
  omega

theorem microStepsOnly_append (a b : List Event) (ha : microStepsOnly a = true) (hb : microStepsOnly b = true) :
    microStepsOnly (a ++ b) = true := by
  fun_induction microStepsOnly a with
  | case1 => simpa
  | case2 l v rest ih => simpa [microStepsOnly] using ih ha
  | case3 => simp at ha

end Sys2Proof.Safety
end

