-- ==== Sys2Proof/Laws/Receiver.lean ====
section
/-! SUPPORT. What the reference receiver (20_memory.md rule R69) makes of each transaction CORE sends. -/

namespace Sys2Proof.Machine

open Sys2Proof.Safety

theorem Device.receiveAll_append (d : Device) (a b : List (List Byte)) :
    d.receiveAll (a ++ b) = (d.receiveAll a).bind fun d => d.receiveAll b := by
  induction a generalizing d with
  | nil => rfl
  | cons t r ih =>
    simp only [List.cons_append, Device.receiveAll]
    cases d.receive t with
    | none => rfl
    | some d => exact ih d

theorem Device.receive_auto (d : Device) : d.receive [0x40] = some { d with mode := some .auto } := rfl

theorem Device.receive_fixed (d : Device) : d.receive [0x44] = some { d with mode := some .fixed } := rfl

theorem Device.receive_disp (d : Device) (b : BitVec 3) : d.receive [dispByte b] = some { d with ctrl := some b } := by
  have h : ∀ b : BitVec 3, [dispByte b] ≠ [0x40] ∧ [dispByte b] ≠ [0x44] ∧ (dispByte b).extractLsb' 3 5 = 0b10001 ∧
      (dispByte b).extractLsb' 0 3 = b := by decide
  obtain ⟨h1, h2, h3, h4⟩ := h b
  unfold Device.receive
  rw [if_neg h1, if_neg h2]
  simp only [h3, h4]
  rfl

/-- An address byte of a position 0..5, in a known mode. -/
theorem Device.receive_addr (d : Device) (pos : Byte) (l : List Byte) (h : pos.toNat < 6) (m : DeviceMode)
    (hm : d.mode = some m) :
    d.receive ((0xC0 ||| pos) :: l) =
      match m with
      | .auto => d.autoWrite pos.toNat l
      | .fixed => d.fixedWrite pos.toNat l := by
  have hh : ∀ pos : Byte, pos.toNat < 6 → (0xC0 ||| pos) ≠ 0x40 ∧ (0xC0 ||| pos) ≠ 0x44 ∧
      (0xC0 ||| pos : Byte).extractLsb' 3 5 ≠ 0b10001 ∧ (0xC0 ||| pos : Byte).extractLsb' 3 5 = 0b11000 ∧
      ((0xC0 ||| pos : Byte).extractLsb' 0 3).toNat = pos.toNat := by decide
  obtain ⟨h1, h2, h5, h3, h4⟩ := hh pos h
  unfold Device.receive
  rw [if_neg (fun h => h1 (List.cons.inj h).1), if_neg (fun h => h2 (List.cons.inj h).1)]
  simp only [h4, hm]
  rw [if_neg (fun h => h5 h.2), if_pos ⟨h3, by simp [Config.devPosMax]; omega⟩]
  cases m <;> rfl

theorem Device.autoWrite_mode {d d' : Device} {a : Nat} {l : List Byte} (h : d.autoWrite a l = some d') :
    d'.mode = d.mode ∧ d'.ctrl = d.ctrl := by
  induction l generalizing d a with
  | nil => cases h; exact ⟨rfl, rfl⟩
  | cons v r ih =>
    unfold Device.autoWrite at h
    split at h
    · have := ih h; exact this
    · cases h

/-- What an auto-increment write that stays within the six positions leaves. -/
theorem Device.autoWrite_mem (d : Device) (a : Nat) (l : List Byte) (h : l = [] ∨ a + l.length ≤ 6) :
    ∃ d', d.autoWrite a l = some d' ∧
      ∀ k : Fin 6, d'.mem[k] = if a ≤ k.val ∧ k.val < a + l.length then l[k.val - a]? else d.mem[k] := by
  induction l generalizing d a with
  | nil => exact ⟨d, rfl, fun k => by rw [if_neg (by simp)]⟩
  | cons v r ih =>
    have ha : a + (r.length + 1) ≤ 6 := by simpa using h
    obtain ⟨d', h1, h2⟩ := ih (d.memWrite ⟨a, by omega⟩ v) (a + 1) (.inr (by omega))
    refine ⟨d', by rw [Device.autoWrite, dif_pos (by omega)]; exact h1, fun k => ?_⟩
    rw [h2 k]
    by_cases hk : k.val = a
    · rw [if_neg (by omega), if_pos ⟨by omega, by simp; omega⟩]
      simp [Device.memWrite, hk]
    · by_cases hr : a + 1 ≤ k.val ∧ k.val < a + 1 + r.length
      · rw [if_pos hr, if_pos ⟨by omega, by simp; omega⟩, show k.val - a = (k.val - (a + 1)) + 1 by omega]; rfl
      · rw [if_neg hr, if_neg (by simp; omega)]
        simp [Device.memWrite, Ne.symm hk]

/-- A byte past position 5 stops the receiver. -/
theorem Device.autoWrite_stops (d : Device) (a : Nat) (l : List Byte) (h : 6 < a + l.length) (ha : a ≤ 6) :
    d.autoWrite a l = none := by
  induction l generalizing d a with
  | nil => simp at h; omega
  | cons v r ih =>
    unfold Device.autoWrite
    split
    · exact ih _ _ (by simp at h; omega) (by omega)
    · rfl

end Sys2Proof.Machine
end

