-- ==== Sys2Proof/Laws/Sequencer.lean ====
section
/-! SUPPORT. The small-step reading of the `CTL` operations (10_state.md rule R23): what a run of small steps through a transaction,
a round and a `SCROLL` does, and how many micro-steps it has. -/

namespace Sys2Proof.Machine

open Sys2Proof.Safety

/-- `n` small steps lead from `s` to `t`, CORE being busy before each of them. -/
def BusyRun (n : Nat) (s t : State) : Prop := State.ticks n s = t ∧ ∀ k < n, (State.ticks k s).busy = true

theorem State.ticks_add (m n : Nat) (s : State) : State.ticks (m + n) s = State.ticks n (State.ticks m s) := by
  induction m generalizing s with
  | zero => simp [State.ticks]
  | succ m ih => rw [Nat.add_right_comm]; exact ih s.tick

theorem BusyRun.zero (s : State) : BusyRun 0 s s := ⟨rfl, by simp⟩

theorem BusyRun.one {s : State} (h : s.busy = true) : BusyRun 1 s s.tick :=
  ⟨rfl, fun k hk => by obtain rfl : k = 0 := by omega
                       exact h⟩

theorem BusyRun.trans {m n : Nat} {s t u : State} (h₁ : BusyRun m s t) (h₂ : BusyRun n t u) : BusyRun (m + n) s u := by
  obtain ⟨rfl, hb₁⟩ := h₁
  refine ⟨by rw [State.ticks_add]; exact h₂.1, fun k hk => ?_⟩
  by_cases hm : k < m
  · exact hb₁ k hm
  · obtain ⟨j, rfl⟩ : ∃ j, k = m + j := ⟨k - m, by omega⟩
    rw [State.ticks_add]; exact h₂.2 j (by omega)

/-- One more small step at the end of a run. -/
theorem BusyRun.snoc {n : Nat} {s t u : State} (h : BusyRun n s t) (hb : t.busy = true) (ht : t.tick = u) :
    BusyRun (n + 1) s u := ht ▸ h.trans (BusyRun.one hb)

/-- The position of a state in a transaction. -/
def State.at (s : State) (p : Phase) (byte slot sub : Nat) : State :=
  { s with txn := p, seq := { s.seq with byte := byte, slot := slot, sub := sub } }

/-- `s` with the lines at these levels after these events. -/
def State.wire (s : State) (clk dio : Bool) (es : List Event) : State := { s with clk := clk, dio := dio, tr := s.tr ++ es }

@[simp] theorem State.at_busy (s : State) (p : Phase) (a b c : Nat) : (s.at p a b c).busy = s.busy := rfl
@[simp] theorem State.wire_busy (s : State) (c d : Bool) (es : List Event) : (s.wire c d es).busy = s.busy := rfl
@[simp] theorem State.wire_clk (s : State) (c d : Bool) (es : List Event) : (s.wire c d es).clk = c := rfl
@[simp] theorem State.wire_dio (s : State) (c d : Bool) (es : List Event) : (s.wire c d es).dio = d := rfl
@[simp] theorem State.wire_currentTxn (s : State) (c d : Bool) (es : List Event) :
    (s.wire c d es).currentTxn = s.currentTxn := rfl
@[simp] theorem State.wire_wire (s : State) (c d c' d' : Bool) (es es' : List Event) :
    (s.wire c d es).wire c' d' es' = s.wire c' d' (es ++ es') := by simp [State.wire]

/-! Each micro-step. -/

theorem tick_start0 (s : State) : (s.at .start 0 0 0).tick = (s.wire s.clk false (micro .dio false)).at .start 0 0 1 := by
  simp [State.at, State.wire, State.tick, State.nextWrite, State.advanceSeq, State.microStep, State.setLine, State.delay,
    State.emit, micro]

theorem tick_start1 (s : State) : (s.at .start 0 0 1).tick = (s.wire false s.dio (micro .clk false)).at .byte 0 0 0 := by
  simp [State.at, State.wire, State.tick, State.nextWrite, State.advanceSeq, State.microStep, State.setLine, State.delay,
    State.emit, micro]

theorem tick_stop0 (s : State) : (s.at .stop 0 0 0).tick = (s.wire s.clk false (micro .dio false)).at .stop 0 0 1 := by
  simp [State.at, State.wire, State.tick, State.nextWrite, State.advanceSeq, State.microStep, State.setLine, State.delay,
    State.emit, micro]

theorem tick_stop1 (s : State) : (s.at .stop 0 0 1).tick = (s.wire true s.dio (micro .clk true)).at .stop 0 0 2 := by
  simp [State.at, State.wire, State.tick, State.nextWrite, State.advanceSeq, State.microStep, State.setLine, State.delay,
    State.emit, micro]

theorem tick_stop2 (s : State) :
    (s.at .stop 0 0 2).tick = ((s.wire s.clk true (micro .dio true)).at .stop 0 0 2).leaveTxn := by
  simp [State.at, State.wire, State.tick, State.nextWrite, State.advanceSeq, State.microStep, State.setLine, State.delay,
    State.emit, micro]

theorem tick_byte0 (s : State) (j k : Nat) (hk : k < 8) :
    (s.at .byte j k 0).tick =
      (s.wire s.clk ((s.currentTxn.getD j 0).getLsbD k) (micro .dio ((s.currentTxn.getD j 0).getLsbD k))).at .byte j k 1 := by
  have hc : ∀ p a b c, (s.at p a b c).currentTxn = s.currentTxn := fun _ _ _ _ => rfl
  simp only [State.tick, State.nextWrite, hc]
  simp [State.at, State.wire, hk, State.advanceSeq, State.microStep, State.setLine, State.delay, State.emit, micro]

theorem tick_byte1 (s : State) (j k : Nat) :
    (s.at .byte j k 1).tick = (s.wire true s.dio (micro .clk true)).at .byte j k 2 := by
  simp [State.at, State.wire, State.tick, State.nextWrite, State.advanceSeq, State.microStep, State.setLine, State.delay,
    State.emit, micro]

theorem tick_byte2 (s : State) (j k : Nat) (hk : k < 8) :
    (s.at .byte j k 2).tick = (s.wire false s.dio (micro .clk false)).at .byte j (k + 1) 0 := by
  simp [State.at, State.wire, State.tick, State.nextWrite, State.advanceSeq, State.microStep, State.setLine, State.delay,
    State.emit, micro, hk]

theorem tick_ack0 (s : State) (j : Nat) :
    (s.at .byte j 8 0).tick = (s.wire false s.dio (micro .clk false)).at .byte j 8 1 := by
  simp [State.at, State.wire, State.tick, State.nextWrite, State.advanceSeq, State.microStep, State.setLine, State.delay,
    State.emit, micro]

theorem tick_ack2 (s : State) (j : Nat) :
    (s.at .byte j 8 2).tick =
      if j + 1 < s.currentTxn.length then (s.wire false s.dio (micro .clk false)).at .byte (j + 1) 0 0
      else (s.wire false s.dio (micro .clk false)).at .stop 0 0 0 := by
  have ht : (s.at .byte j 8 2).microStep .clk false = (s.wire false s.dio (micro .clk false)).at .byte j 8 2 := by
    simp [State.at, State.wire, State.microStep, State.setLine, State.delay, State.emit, micro]
  show ((s.at .byte j 8 2).microStep .clk false).advanceSeq = _
  rw [ht]; rfl

/-! The micro-operations. -/

theorem busyRun_start (s : State) (h : s.busy = true) :
    BusyRun 2 (s.at .start 0 0 0) ((s.wire false false startWave).at .byte 0 0 0) := by
  have := ((BusyRun.zero (s.at .start 0 0 0)).snoc h (tick_start0 s)).snoc h (tick_start1 _)
  simpa [startWave] using this

theorem busyRun_stop (s : State) (h : s.busy = true) :
    BusyRun 3 (s.at .stop 0 0 0) ((s.wire true true stopWave).at .stop 0 0 2).leaveTxn := by
  have := (((BusyRun.zero (s.at .stop 0 0 0)).snoc h (tick_stop0 s)).snoc h (tick_stop1 _)).snoc h (tick_stop2 _)
  simpa [stopWave] using this

theorem busyRun_dataSlot (s : State) (h : s.busy = true) (j k : Nat) (hk : k < 8) :
    BusyRun 3 (s.at .byte j k 0)
      ((s.wire false ((s.currentTxn.getD j 0).getLsbD k) (slotWave (s.currentTxn.getD j 0) k)).at .byte j (k + 1) 0) := by
  have := (((BusyRun.zero (s.at .byte j k 0)).snoc h (tick_byte0 s j k hk)).snoc h (tick_byte1 _ j k)).snoc h (tick_byte2 _ j k hk)
  simpa [slotWave] using this

theorem busyRun_slots (s : State) (h : s.busy = true) (j n : Nat) (hn : n + 1 ≤ 8) :
    BusyRun (3 * (n + 1)) (s.at .byte j 0 0)
      ((s.wire false ((s.currentTxn.getD j 0).getLsbD n)
        ((List.range (n + 1)).flatMap (slotWave (s.currentTxn.getD j 0)))).at .byte j (n + 1) 0) := by
  induction n with
  | zero => simpa [List.range_succ] using busyRun_dataSlot s h j 0 (by omega)
  | succ n ih =>
    have := (ih (by omega)).trans (busyRun_dataSlot (s.wire false ((s.currentTxn.getD j 0).getLsbD n)
      ((List.range (n + 1)).flatMap (slotWave (s.currentTxn.getD j 0)))) h j (n + 1) (by omega))
    rw [State.wire_currentTxn, State.wire_wire] at this
    rw [List.range_succ, List.flatMap_append, List.flatMap_singleton]
    exact this

/-- The byte `j` of the current transaction; after it the next byte, or `STOP`. -/
theorem busyRun_byte (s : State) (h : s.busy = true) (j : Nat) :
    BusyRun 27 (s.at .byte j 0 0)
      (let t := s.wire false ((s.currentTxn.getD j 0).getLsbD 7) (byteWave (s.currentTxn.getD j 0))
       if j + 1 < s.currentTxn.length then t.at .byte (j + 1) 0 0 else t.at .stop 0 0 0) := by
  have := (((busyRun_slots s h j 7 (by omega)).snoc h (tick_ack0 _ j)).snoc h (tick_byte1 _ j 8)).snoc h (tick_ack2 _ j)
  simp only [State.wire_currentTxn, State.wire_wire, State.wire_dio, List.append_assoc] at this
  simpa only [byteWave, ackWave, List.append_assoc] using this

/-- The last byte of a transaction, and its `STOP`. -/
theorem busyRun_lastByte (bytes : List Byte) (s : State) (h : s.busy = true) (hc : s.currentTxn = bytes) (j : Nat)
    (hj : j + 1 = bytes.length) :
    BusyRun 30 (s.at .byte j 0 0) ((s.wire true true ((bytes.drop j).flatMap byteWave ++ stopWave)).at .stop 0 0 2).leaveTxn := by
  have hb := busyRun_byte s h j
  rw [hc] at hb
  simp only [show ¬ j + 1 < bytes.length by omega, if_false] at hb
  have hs := hb.trans (busyRun_stop (s.wire false ((bytes.getD j 0).getLsbD 7) (byteWave (bytes.getD j 0))) h)
  have hd : bytes.drop j = [bytes.getD j 0] := by
    rw [List.drop_eq_getElem_cons (by omega), List.getD_eq_getElem _ _ (by omega), List.drop_of_length_le (by omega)]
  rw [State.wire_wire] at hs
  rw [hd]
  simpa only [List.flatMap_cons, List.flatMap_nil, List.append_nil] using hs

/-- The bytes of the current transaction from byte `j` on, and its `STOP`. -/
theorem busyRun_bytes (bytes : List Byte) (n : Nat) (s : State) (h : s.busy = true) (hc : s.currentTxn = bytes) (j : Nat)
    (hj : j + n + 1 = bytes.length) :
    BusyRun (27 * n + 30) (s.at .byte j 0 0)
      ((s.wire true true ((bytes.drop j).flatMap byteWave ++ stopWave)).at .stop 0 0 2).leaveTxn := by
  induction n generalizing s j with
  | zero => exact busyRun_lastByte bytes s h hc j hj
  | succ n ih =>
    have hb := busyRun_byte s h j
    rw [hc] at hb
    simp only [show j + 1 < bytes.length by omega, if_true] at hb
    have hn := ih (s.wire false ((bytes.getD j 0).getLsbD 7) (byteWave (bytes.getD j 0))) h
      ((State.wire_currentTxn s _ _ _).trans hc) (j + 1) (by omega)
    have hd : bytes.drop j = bytes.getD j 0 :: bytes.drop (j + 1) := by
      rw [List.drop_eq_getElem_cons (by omega), List.getD_eq_getElem _ _ (by omega)]
    have hs := hb.trans hn
    rw [State.wire_wire, ← List.append_assoc] at hs
    rw [hd, show 27 * (n + 1) + 30 = 27 + (27 * n + 30) by omega, List.flatMap_cons]
    exact hs

/-- A whole transaction. -/
theorem busyRun_txn (s : State) (h : s.busy = true) (hne : s.currentTxn ≠ []) :
    BusyRun (5 + 27 * s.currentTxn.length) (s.at .start 0 0 0)
      ((s.wire true true (txnWave s.currentTxn)).at .stop 0 0 2).leaveTxn := by
  have hl : 0 < s.currentTxn.length := List.length_pos_of_ne_nil hne
  have := (busyRun_start s h).trans
    (busyRun_bytes s.currentTxn (s.currentTxn.length - 1) (s.wire false false startWave) h
      (State.wire_currentTxn s _ _ _) 0 (by omega))
  rw [State.wire_wire] at this
  rw [show 5 + 27 * s.currentTxn.length = 2 + (27 * (s.currentTxn.length - 1) + 30) by omega]
  simpa [txnWave] using this

/-- `s` at the end of the transaction `k`, the last of its round, once the byte log has it. -/
def State.sent (s : State) (k : Nat) (ts : List (List Byte)) : State :=
  { s with clk := true, dio := true, txn := .idle, tr := s.tr ++ logWave ts, bl := s.bl ++ ts,
           seq := { s.seq with txn := k, byte := 0, slot := 0, sub := 2 } }

/-- The number of micro-steps of some transactions (R116). -/
def microSteps (ts : List (List Byte)) : Nat := (ts.map fun t => 5 + 27 * t.length).sum

/-- The transaction `k` of a round; after it the next one, or the end of the round. -/
theorem busyRun_oneTxn (ts : List (List Byte)) (s : State) (h : s.busy = true) (hr : s.roundTxns = ts) (k : Nat)
    (hk : k < ts.length) (hne : ts[k] ≠ []) :
    BusyRun (microSteps [ts[k]]) (s.toTxn k)
      (if k + 1 < ts.length then (s.sent k [ts[k]]).toTxn (k + 1) else (s.sent k [ts[k]]).leaveRound) := by
  have hc : ({ s with seq := { s.seq with txn := k } } : State).currentTxn = ts[k] := by
    show s.roundTxns.getD k [] = _
    rw [hr, List.getD_eq_getElem _ _ hk]
  have ht := busyRun_txn { s with seq := { s.seq with txn := k } } h (by rw [hc]; exact hne)
  rw [hc] at ht
  have e : ({ ({ s with seq := { s.seq with txn := k } } : State).wire true true (txnWave ts[k]) with
      txn := .idle, seq := { s.seq with txn := k, byte := 0, slot := 0, sub := 2 }, bl := s.bl ++ [ts[k]] } : State) =
      s.sent k [ts[k]] := by
    simp [State.sent, State.wire, logWave]
  have hl : ((({ s with seq := { s.seq with txn := k } } : State).wire true true (txnWave ts[k])).at .stop 0 0 2).leaveTxn =
      if k + 1 < ts.length then (s.sent k [ts[k]]).toTxn (k + 1) else (s.sent k [ts[k]]).leaveRound := by
    rw [← e, ← hc, ← hr]; rfl
  rw [hl] at ht
  rw [show microSteps [ts[k]] = 5 + 27 * ts[k].length by simp [microSteps]]
  exact ht

/-- The transactions of a round from transaction `k` on. -/
theorem busyRun_txns (ts : List (List Byte)) (hne : ∀ t ∈ ts, t ≠ []) (n : Nat) (s : State) (h : s.busy = true)
    (hr : s.roundTxns = ts) (k : Nat) (hk : k + n + 1 = ts.length) :
    BusyRun (microSteps (ts.drop k)) (s.toTxn k) (s.sent (k + n) (ts.drop k)).leaveRound := by
  have hd : ts.drop k = ts[k]'(by omega) :: ts.drop (k + 1) := List.drop_eq_getElem_cons (by omega)
  have ht := busyRun_oneTxn ts s h hr k (by omega) (hne _ (List.getElem_mem _))
  induction n generalizing s k with
  | zero =>
    rw [if_neg (by omega)] at ht
    rw [hd, List.drop_of_length_le (by omega)]
    exact ht
  | succ n ih =>
    rw [if_pos (by omega)] at ht
    have hd' : ts.drop (k + 1) = ts[k + 1]'(by omega) :: ts.drop (k + 1 + 1) := List.drop_eq_getElem_cons (by omega)
    have hn := ih (s.sent k [ts[k]'(by omega)]) h hr (k + 1) (by omega) hd'
      (busyRun_oneTxn ts (s.sent k [ts[k]'(by omega)]) h hr (k + 1) (by omega) (hne _ (List.getElem_mem _)))
    have hs := ht.trans hn
    have e : (s.sent k [ts[k]'(by omega)]).sent (k + 1 + n) (ts.drop (k + 1)) = s.sent (k + (n + 1)) (ts.drop k) := by
      rw [hd, show k + (n + 1) = k + 1 + n by omega]
      generalize ts[k]'(by omega) = a
      simp [State.sent, logWave]
    rw [e] at hs
    have em : microSteps (ts.drop k) = microSteps [ts[k]'(by omega)] + microSteps (ts.drop (k + 1)) := by
      rw [hd]
      generalize ts[k]'(by omega) = a
      simp [microSteps]
    rw [em]; exact hs

/-- A whole round. -/
theorem busyRun_round (ts : List (List Byte)) (s : State) (h : s.busy = true) (hr : s.roundTxns = ts) (h0 : ts ≠ [])
    (hne : ∀ t ∈ ts, t ≠ []) :
    BusyRun (microSteps ts) (s.toTxn 0) (s.sent (ts.length - 1) ts).leaveRound := by
  have hl := List.length_pos_of_ne_nil h0
  have := busyRun_txns ts hne (ts.length - 1) s h hr 0 (by omega)
  simpa using this

theorem delays_bytes (bs : List Byte) : (bs.flatMap byteWave).countP isDelay = 27 * bs.length := by
  induction bs with
  | nil => rfl
  | cons b r ih => rw [List.flatMap_cons, List.countP_append, ih, show (byteWave b).countP isDelay = 27 from rfl]; simp; omega

theorem delays_log (ts : List (List Byte)) : (logWave ts).countP isDelay = microSteps ts := by
  induction ts with
  | nil => rfl
  | cons t r ih =>
    rw [show logWave (t :: r) = txnWave t ++ logWave r from rfl, List.countP_append, ih, txnWave, List.countP_append, List.countP_append, delays_bytes,
      show startWave.countP isDelay = 2 from rfl, show stopWave.countP isDelay = 3 from rfl]
    simp [microSteps]; omega

theorem delays_diags (ds : List Diag) : (ds.map Event.diag).countP isDelay = 0 := by
  induction ds with
  | nil => rfl
  | cons d r ih => simp [isDelay]

/-! The rounds of `SCROLL`: its big step leaves `SEQ` alone, its small steps go through `enterRound` again. -/

theorem scrollRound_seq (d : Half) (s : State) (c : Byte) (q : Seq) :
    State.scrollRound d { s with seq := q } c = { State.scrollRound d s c with seq := q } := by
  simp [State.scrollRound_eq, State.setWin, State.loadSegs]

theorem scrollRounds_seq (d : Half) (str : List Byte) (s : State) (q : Seq) :
    str.foldl (State.scrollRound d) { s with seq := q } = { str.foldl (State.scrollRound d) s with seq := q } := by
  induction str generalizing s with
  | nil => rfl
  | cons c r ih => rw [List.foldl_cons, scrollRound_seq, ih, List.foldl_cons]

theorem leaveRound_scroll (w : State) (ho : w.seq.op = some .scroll) :
    w.leaveRound = ({ w with seq := { w.seq with iter := w.seq.iter + 1 } } : State).enterRound := by
  unfold State.leaveRound; rw [ho]

theorem busyRun_scroll (rest : List Byte) (i : Nat) (s : State) (hop : s.seq.op = some .scroll) (h : s.busy = true)
   (hr : s.x.s.drop i = rest) (hi : s.seq.iter = i) :
   BusyRun (204 * rest.length) s.enterRound (rest.foldl (State.scrollRound s.x.delayMs) s).finish := by
  induction rest generalizing i s with
  | nil =>
    have : s.x.s[i]? = none := by rw [List.getElem?_eq_none_iff]; simpa using hr
    have he : s.enterRound = s.finish := by simp [State.enterRound, hop, hi, this]
    rw [he]; exact BusyRun.zero _
  | cons c r ih =>
    have hlt : i < s.x.s.length := by
      by_contra hc
      rw [List.drop_of_length_le (by omega)] at hr; cases hr
    have hd := List.drop_eq_getElem_cons hlt
    rw [hr] at hd
    obtain ⟨hc, hd⟩ := List.cons.inj hd
    have hg : s.x.s[i]? = some c := by rw [List.getElem?_eq_getElem hlt, hc]
    obtain ⟨u, hu⟩ : ∃ u, u = ((((s.sleep s.x.delayMs).setWin (shiftWindow s.win c)).raiseDiags (encodeString (shiftWindow s.win c).toList).2).loadSegs (encodeString (shiftWindow s.win c).toList).1) := ⟨_, rfl⟩
    have he : s.enterRound = u.toTxn 0 := by
      simp only [State.enterRound, hop, hi, hg, hu]; rfl
    have hl : (encodeString (shiftWindow s.win c).toList).1.length = 4 := by rw [encodeString_length]; simp
    have hts : u.roundTxns = autoTxns 0 (encodeString (shiftWindow s.win c).toList).1 s.bright := by
      have ho : u.seq.op = some .scroll := by rw [hu]; exact hop
      unfold State.roundTxns
      rw [ho]
      have hb : u.bufferedSegs = (encodeString (shiftWindow s.win c).toList).1 := by rw [hu, State.bufferedSegs_loadSegs _ _ (by omega)]
      simp only [hb]
      rw [hu]; rfl
    have hub : u.busy = true := by rw [hu]; exact h
    have hrun := busyRun_round _ u hub hts (by simp [autoTxns]) (by simp [autoTxns])
    have hm : microSteps (autoTxns 0 (encodeString (shiftWindow s.win c).toList).1 s.bright) = 204 := by simp [microSteps, autoTxns, hl]
    rw [hm] at hrun
    obtain ⟨v, hv⟩ : ∃ v, v = ({ u.sent 2 (autoTxns 0 (encodeString (shiftWindow s.win c).toList).1 s.bright) with seq := { op := some .scroll, iter := i + 1, txn := 2, byte := 0, slot := 0, sub := 2 } } : State) := ⟨_, rfl⟩
    have hle : (u.sent 2 (autoTxns 0 (encodeString (shiftWindow s.win c).toList).1 s.bright)).leaveRound = v.enterRound := by
      have ho : (u.sent 2 (autoTxns 0 (encodeString (shiftWindow s.win c).toList).1 s.bright)).seq.op = some .scroll := by rw [hu]; exact hop
      have hii : u.seq.iter = i := by rw [hu]; exact hi
      rw [leaveRound_scroll _ ho]
      congr 1
      rw [hv, ← hii, ← ho]
      rfl
    have hvs : v = { State.scrollRound s.x.delayMs s c with seq := v.seq } := by
      rw [hv, hu, State.scrollRound_eq]
      simp [State.sent, State.setWin, State.loadSegs, State.raiseDiags, State.emit, State.sleep, roundWave]
    have hn := ih (i + 1) v (by rw [hv]) (by rw [hv]; exact hub) (by rw [hd, hv, hu]; rfl) (by rw [hv])
    rw [he, List.foldl_cons, show 204 * (c :: r).length = 204 + 204 * r.length by simp; omega]
    have hs := hrun.trans (hle ▸ hn)
    have hx : v.x.delayMs = s.x.delayMs := by rw [hv, hu]; rfl
    rw [hx, hvs, scrollRounds_seq] at hs
    exact hs

end Sys2Proof.Machine
end

