-- ==== Sys2Proof/Tests/Slice0.lean ====
section
/-! SUPPORT. The tests. Expected results are the vectors of 95_test_vectors.md, named in the comments, or words written out from the
encodings of 30_encoding.md; and one witness for the hypotheses of each statement. -/

namespace Sys2Proof.Tests

open Sys2Proof.Machine Sys2Proof.Safety

/-- A small state right after a `CONSTRUCT(4, 5)` with `DEFAULT_BRIGHTNESS = 7` (V20), its trace and byte log left empty. -/
def built : State :=
  { State.reset with bright := 7, clkId := 4, dioId := 5, clk := true, dio := true, clkDir := .out, dioDir := .out,
                     constructed := true }

/-- `built` while an operation is in progress. -/
def working : State := { built with busy := true }

/-- The byte log after, the diagnostics in the trace, the number of events, the last reply: of an outcome that is a next state. -/
def blOf : Host.Outcome State Fault Refusal → Option (List (List Byte))
  | .next t => some t.bl
  | _ => none
def trOf : Host.Outcome State Fault Refusal → Option (List Event)
  | .next t => some t.tr
  | _ => none
def repliesOf : Host.Outcome State Fault Refusal → Option (List Reply)
  | .next t => some t.replies
  | _ => none
def brightOf : Host.Outcome State Fault Refusal → Option (BitVec 3)
  | .next t => some t.bright
  | _ => none
def refusalOf : Host.Outcome State Fault Refusal → Option Refusal
  | .refused r => some r
  | _ => none
def diagsOf : Host.Outcome State Fault Refusal → Option (List Event)
  | .next t => some (t.tr.filter isDiag)
  | _ => none

/-! ## The checks of R83: an ill-formed term, or packet, for each -/

theorem test_wf_opcode : decode ⟨.ctl, [0x08]⟩ = .error .opcode ∧ decode ⟨.ctl, [0x20]⟩ = .error .opcode ∧
    decode ⟨.enc, [0x15]⟩ = .error .opcode ∧ decode ⟨.enc, [0x00]⟩ = .error .opcode := by decide  -- V85
theorem test_wf_length : decode ⟨.ctl, [0x02]⟩ = .error .length ∧ decode ⟨.ctl, [0x01, 0x00]⟩ = .error .length := by
  decide  -- V86
theorem test_wf_flag : decode ⟨.ctl, [0x04, 0x02, 0x00, 0x00]⟩ = .error .flag := by decide  -- V83
theorem test_wf_segLen : (Instr.write 0 [1, 2, 3, 4, 5, 6, 7]).illFormed = some .segLen ∧
    (Instr.write 0 [1, 2, 3, 4, 5, 6]).illFormed = none := by decide  -- V55, V53
theorem test_wf_str : (Instr.showText false [0x31, 0x00]).illFormed = some .str ∧
    (Instr.scroll 0 [0x00]).illFormed = some .str ∧ (Instr.encodeString [0x00]).illFormed = some .str := by decide  -- V84
theorem test_wf_lines : (Instr.construct 5 5).illFormed = some .lines := by decide  -- V82
theorem test_wf_number : (Instr.number 10000).illFormed = some .number ∧ (Instr.number 9999).illFormed = none := by
  decide  -- V43, V42

/-! ## Decoding: for each instruction a word written out from R82, R90 to R93, bit 0 the least significant bit of byte 0 -/

theorem test_decode_construct : decodeTableWord 24 0b00010011_00010010_00000000 = some (.construct 18 19) := by decide
theorem test_decode_brightnessGet : decodeTableWord 8 0b00000001 = some .brightnessGet := by decide
theorem test_decode_brightnessSet : decodeTableWord 16 0b00001001_00000010 = some (.brightnessSet 9) := by decide
theorem test_decode_write : decodeTableWord 32 0b00111111_00000001_11111111_00000011 = some (.write (-1) [0x3F]) := by decide
theorem test_decode_showText :
    decodeTableWord 48 0b00110010_00110001_00000000_00000010_00000001_00000100 = some (.showText true [0x31, 0x32]) := by decide
theorem test_decode_setRaw : decodeTableWord 24 0b11101111_00000010_00000101 = some (.setRaw 2 0xEF) := by decide
theorem test_decode_setChar : decodeTableWord 32 0b00000001_00111001_00000010_00000110 = some (.setChar 2 0x39 true) := by
  decide
theorem test_decode_scroll :
    decodeTableWord 56 0b01000010_01000001_00000000_00000010_00000001_00001010_00000111 =
      some (.scroll 0x010A [0x41, 0x42]) := by decide
theorem test_decode_encodeDigit : decodeTableWord 16 0b00011001_00010000 = some (.encodeDigit 25) := by decide
theorem test_decode_encodeChar : decodeTableWord 16 0b00100011_00010001 = some (.encodeChar 0x23) := by decide
theorem test_decode_encodeString :
    decodeTableWord 32 0b00110111_00000000_00000001_00010010 = some (.encodeString [0x37]) := by decide
theorem test_decode_hex : decodeTableWord 24 0b10111110_11101111_00010011 = some (.hex 0xBEEF) := by decide
theorem test_decode_number : decodeTableWord 24 0b00100111_00001111_00010100 = some (.number 9999) := by decide
theorem test_decode_start : decodeTableWord 8 0b00100000 = some .start := by decide
theorem test_decode_stop : decodeTableWord 8 0b00100001 = some .stop := by decide
theorem test_decode_writeByte : decodeTableWord 16 0b01000000_00100010 = some (.writeByte 0x40) := by decide
theorem test_decode_commandSequence : decodeTableWord 16 0b10001111_00100011 = some (.commandSequence 0x8F) := by decide
theorem test_decode_busDataAutoinc : decodeTableWord 8 0b01000000 = some .busDataAutoinc := by decide
theorem test_decode_busDataFixed : decodeTableWord 8 0b01000100 = some .busDataFixed := by decide
theorem test_decode_busDisplayCtrl : decodeTableWord 8 0b10001_101 = some (.busDisplayCtrl 5) := by decide
theorem test_decode_busAddress : decodeTableWord 8 0b11000_100 = some (.busAddress 4) := by decide
/-- R92, R97: a display-control byte with the display off is no row of the table. -/
theorem test_decode_busReserved : decodeTableWord 8 0b10000_101 = none ∧ decodeTableWord 8 0b01000_001 = none := by decide
/-- Operand words of zeros: a row's bits may end before its operands. -/
theorem test_decode_zero_operands : decodeTableWord 8 0x03 = some (.write 0 []) ∧ decodeTableWord 8 0x12 = some (.encodeString []) := by
  decide

/-! ## Single steps -/

theorem test_start : trOf (exec .start built) = some [.set .dio false, .delay, .set .clk false, .delay] := by decide  -- V1
theorem test_stop :
    trOf (exec .stop State.reset) = some [.set .dio false, .delay, .set .clk true, .delay, .set .dio true, .delay] := by
  decide  -- V2
/-- V7: the bits of 0xDB from bit 0 are 1 1 0 1 1 0 1 1. -/
theorem test_writeByte :
    (trOf (exec (.writeByte 0xDB) State.reset)).map (fun es => (es.length, es.filter fun e => e = .set .dio true ∨ e = .set .dio false)) =
      some (54, [.set .dio true, .set .dio true, .set .dio false, .set .dio true, .set .dio true, .set .dio false,
        .set .dio true, .set .dio true]) := by decide
theorem test_commandSequence : (trOf (exec (.commandSequence 0x8F) built)).map counts = some (0, 32, 32, 0, 0) ∧
    blOf (exec (.commandSequence 0x8F) built) = some [[0x8F]] := by decide  -- V11
theorem test_busDataAutoinc : blOf (exec .busDataAutoinc built) = some [[0x40]] := by decide
theorem test_busDataFixed : blOf (exec .busDataFixed built) = some [[0x44]] := by decide
theorem test_busDisplayCtrl : blOf (exec (.busDisplayCtrl 7) built) = some [[0x8F]] := by decide
theorem test_busAddress : blOf (exec (.busAddress 5) built) = some [[0xC5]] := by decide

theorem test_construct_events : (trOf (exec (.construct 18 19) State.reset)).map (fun es => (counts es, es.take 4)) =
    some ((2, 66, 64, 0, 0), [.cfg .clk, .cfg .dio, .set .clk false, .set .dio false]) := by decide +kernel  -- V20
theorem test_construct_twice : refusalOf (exec (.construct 18 19) built) = some .alreadyConstructed := by decide  -- V81
theorem test_brightnessGet : repliesOf (exec .brightnessGet built) = some [.byte 7] := by decide  -- V21
theorem test_brightnessGet_before : refusalOf (exec .brightnessGet State.reset) = some .notConstructed := by decide  -- V80
theorem test_brightnessSet_9 : blOf (exec (.brightnessSet 9) built) = some [[0x40], [0x89]] ∧
    diagsOf (exec (.brightnessSet 9) built) = some [.diag (.brightnessRange 9)] ∧
    brightOf (exec (.brightnessSet 9) built) = some 1 := by decide +kernel  -- V26
theorem test_brightnessSet_0 : blOf (exec (.brightnessSet 0) built) = some [[0x40], [0x88]] ∧
    diagsOf (exec (.brightnessSet 0) built) = some [] := by decide +kernel  -- V22
theorem test_write : blOf (exec (.write 4 [1, 2, 3, 4, 5, 6]) built) = some [[0x40], [0xC4, 1, 2, 3, 4, 5, 6], [0x8F]] := by
  decide +kernel  -- V54
theorem test_write_outOfRange : trOf (exec (.write (-1) [0x3F]) built) = some [.diag (.positionRange (-1))] ∧
    trOf (exec (.write 5 [0x3F]) built) = some [.diag (.positionRange 5)] ∧
    blOf (exec (.write 5 [0x3F]) built) = some [] := by decide  -- V51, V50
theorem test_show_colon : blOf (exec (.showText true [0x31, 0x32]) built) = some [[0x40], [0xC0, 0x06, 0xDB], [0x8F]] ∧
    blOf (exec (.showText true [0x37]) built) = some [[0x40], [0xC0, 0x07], [0x8F]] := by decide  -- V56, V58
theorem test_show_miss : blOf (exec (.showText false [0x31, 0x23]) built) = some [[0x40], [0xC0, 0x06, 0x00], [0x8F]] ∧
    (trOf (exec (.showText false [0x31, 0x23]) built)).map (List.take 1) = some [.diag (.encodingMiss 0x23)] := by
  decide +kernel  -- V61
theorem test_setRaw : blOf (exec (.setRaw (-1) 0x00) built) = some [[0x44], [0xFF, 0x00], [0x8F]] ∧
    blOf (exec (.setRaw 64 0x01) built) = some [[0x44], [0xC0, 0x01], [0x8F]] := by decide  -- V65
theorem test_setChar : blOf (exec (.setChar 2 0x39 true) built) = some [[0x44], [0xC2, 0xEF], [0x8F]] := by decide  -- V66
theorem test_setChar_miss : blOf (exec (.setChar 1 0x23 true) built) = some [[0x44], [0xC1, 0x80], [0x8F]] ∧
    diagsOf (exec (.setChar 1 0x23 true) built) = some [.diag (.encodingMiss 0x23)] := by decide +kernel  -- V68
theorem test_scroll : blOf (exec (.scroll 10 [0x41, 0x42]) built) =
    some [[0x40], [0xC0, 0x00, 0x00, 0x00, 0x77], [0x8F], [0x40], [0xC0, 0x00, 0x00, 0x77, 0x7C], [0x8F]] := by
  decide +kernel  -- V71
theorem test_scroll_empty : trOf (exec (.scroll 250 []) built) = some [] := by decide  -- V70

theorem test_encodeDigit : repliesOf (exec (.encodeDigit 25) State.reset) = some [.seg 0x6F []] ∧
    repliesOf (exec (.encodeDigit 255) working) = some [.seg 0x71 []] := by decide  -- V31
theorem test_encodeChar_valid : repliesOf (exec (.encodeChar 0x46) State.reset) = some [.seg 0x71 []] ∧
    repliesOf (exec (.encodeChar 0x2D) State.reset) = some [.seg 0x40 []] := by decide  -- V33, V35
theorem test_encodeChar_misses : ∀ c ∈ ([0x00, 0x1F, 0x21, 0x2B, 0x2F, 0x3A, 0x40, 0x5B, 0x60, 0x7B, 0xFF] : List Byte),
    repliesOf (exec (.encodeChar c) State.reset) = some [.seg 0x00 [.encodingMiss c]] := by decide  -- V36
theorem test_encodeString : repliesOf (exec (.encodeString [0x31, 0x23, 0x32, 0x3F]) State.reset) =
    some [.segs [0x06, 0x00, 0x5B, 0x00] [.encodingMiss 0x23, .encodingMiss 0x3F]] := by decide  -- V39
theorem test_encodeString_cut : repliesOf (exec (.encodeString [0x31, 0x32, 0x33, 0x34, 0x23]) State.reset) =
    some [.segs [0x06, 0x5B, 0x4F, 0x66] []] := by decide  -- V40
theorem test_hex : repliesOf (exec (.hex 0xBEEF) State.reset) = some [.segs [0x7C, 0x79, 0x79, 0x71] []] := by decide  -- V41
theorem test_number : repliesOf (exec (.number 1234) State.reset) = some [.segs [0x06, 0x5B, 0x4F, 0x66] []] := by decide  -- V42
theorem test_number_refused : refusalOf (exec (.number 10000) State.reset) = some (.illFormed .number) := by decide  -- V43

/-- The fetch hook: the very next step runs the word. -/
theorem test_withFetchWord : repliesOf (step (State.reset.withFetchWord 16 0x1910)) = some [.seg 0x6F []] := by decide
/-- The assembler's defaults (R100). -/
theorem test_assembler : assemble [asmWrite [0x3F], asmShow [0x31], asmScroll []] =
    [⟨.ctl, [0x03, 0x00, 0x01, 0x3F]⟩, ⟨.ctl, [0x04, 0x00, 0x01, 0x00, 0x31]⟩, ⟨.ctl, [0x07, 0xFA, 0x00, 0x00, 0x00]⟩] := by
  decide

/-! ## Witnesses: for each statement with hypotheses, a state and operands that meet them all together, each clause at a boundary
of its range -/

/-- A boundary list of characters for the string statements: more than four, one of them outside the classes. -/
def str5 : List Byte := [0x31, 0x23, 0x32, 0x41, 0x7A]

/-- `s` with the packet of `i` as the host's only one. -/
def withPacket (s : State) (i : Instr) : State := { s with inbox := [encode i] }

/-- A state after construction whose trace and byte log are those of its construction. -/
def constructed7 : State :=
  { built with tr := [.cfg .clk, .cfg .dio, .set .clk false, .set .dio false] ++ logWave [[0x40], [0x8F]]
               bl := [[0x40], [0x8F]] }

theorem built_ready : ready built := by unfold ready atRest; decide
theorem reset_atRest : atRest State.reset := by unfold atRest; decide

theorem witness_DecodeOfEncode : (Instr.write 0xFF [1, 2, 3, 4, 5, 6]).wellFormed = true ∧
    (Instr.number 9999).wellFormed = true ∧ (Instr.construct 0 255).wellFormed = true ∧
    (Instr.showText true [0xFF]).wellFormed = true := by decide
theorem witness_PacketDecodes : decode ⟨.ctl, [0x03, 0xFF, 0x01, 0x3F]⟩ = .ok (.write 0xFF [0x3F]) ∧
    decode ⟨.bus, [0xC7]⟩ = .ok (.busAddress 7) := by decide
theorem witness_FailedOperandCheck : 6 < ([1, 2, 3, 4, 5, 6, 7] : List Byte).length ∧
    (0 ∈ ([0] : List Byte) ∧ ([0] : List Byte).length ≤ 65535) ∧ 9999 < (10000 : Half).toNat ∧
    (Instr.construct 5 5).illFormed = some .lines := by decide
theorem witness_StepRuns : (withPacket built .brightnessGet).inbox = encode .brightnessGet :: [] ∧
    decode (encode .brightnessGet) = .ok .brightnessGet := by decide
theorem witness_StepRefuses : ({ built with inbox := [⟨.ctl, [0x08]⟩] } : State).inbox = ⟨.ctl, [0x08]⟩ :: [] ∧
    decode ⟨.ctl, [0x08]⟩ = .error .opcode ∧ State.reset.inbox = [] := by decide
theorem witness_PortStateChecks : ctlOp (.write 0 []) = some .write ∧ (Instr.write 0 []).illFormed = none ∧
    working.busy = true ∧ (built.busy = false ∧ built.constructed = true) ∧
    (State.reset.busy = false ∧ State.reset.constructed = false) ∧ ctlOp (.construct 4 5) = some .construct ∧
    (Instr.construct 4 5).illFormed = none ∧ (Instr.hex 0).source = .enc ∧ (Instr.hex 0).illFormed = none := by decide
theorem witness_LatchesHold : hostInstr (.hex 7) ∧ (∃ t, exec (.hex 7) working = .next t) ∧ (∃ t, exec (.hex 7) built = .next t) ∧
    (∃ t, exec (.number 9999) built = .next t) ∧ (∃ t, exec (.encodeDigit 0) built = .next t) ∧
    (∃ t, exec (.encodeChar 0) built = .next t) ∧ (∃ t, exec (.encodeString str5) built = .next t) ∧
    hostInstr (.construct 4 5) ∧ (∃ t, exec (.construct 4 5) State.reset = .next t) ∧
    (∃ t, exec (.brightnessSet 9) built = .next t) ∧ (∃ t, exec (.write 0xFF [1]) built = .next t) ∧
    (∃ t, exec (.showText true str5) built = .next t) ∧ (∃ t, exec (.setRaw 0xFF 1) built = .next t) ∧
    (∃ t, exec (.setChar 0 0 true) built = .next t) ∧ (∃ t, exec (.scroll 0xFFFF str5) built = .next t) :=
  ⟨.inr rfl, ⟨_, rfl⟩, ⟨_, rfl⟩, ⟨_, rfl⟩, ⟨_, rfl⟩, ⟨_, rfl⟩, ⟨_, rfl⟩, .inl rfl, ⟨_, rfl⟩, ⟨_, rfl⟩, ⟨_, rfl⟩, ⟨_, rfl⟩,
    ⟨_, rfl⟩, ⟨_, rfl⟩, ⟨_, rfl⟩⟩
theorem witness_EveryBusLineWrite : (Instr.writeByte 0xFF).source = .uop ∧ (∃ t, exec (.writeByte 0xFF) built = .next t) ∧
    (∃ t, exec .start built = .next t) ∧ (∃ t, exec .stop built = .next t) ∧
    (Instr.busAddress 7).source = .bus ∧ ∃ t, exec (.busAddress 7) built = .next t :=
  ⟨rfl, ⟨_, rfl⟩, ⟨_, rfl⟩, ⟨_, rfl⟩, rfl, ⟨_, rfl⟩⟩
theorem witness_DataChanges : (built.clk = true ∧ built.dio = true) ∧ State.reset.clk = false ∧ State.reset.dio = false := by
  decide
theorem witness_NineRisingEdges : State.reset.clk = false ∧ ∃ t, exec (.writeByte 0x80) State.reset = .next t :=
  ⟨rfl, ⟨_, rfl⟩⟩
theorem witness_WaveformDetermines : logWave [[0x40]] = logWave [[0x40]] := rfl
/-- The codes next to each class, none of them in one. -/
theorem witness_EncodeCharMiss : ∀ c ∈ ([0x00, 0x21, 0x29, 0x2B, 0x2C, 0x2E, 0x2F, 0x3A, 0x40, 0x5B, 0x60, 0x7B, 0xFF] : List Byte),
    c ≠ 0x20 ∧ c ≠ 0x2A ∧ c ≠ 0x2D ∧ ¬ (0x41 ≤ c.toNat ∧ c.toNat ≤ 0x5A) ∧ ¬ (0x61 ≤ c.toNat ∧ c.toNat ≤ 0x7A) ∧
      ¬ (0x30 ≤ c.toNat ∧ c.toNat ≤ 0x39) := by decide
theorem witness_string_operand : str5.length ≤ 65535 ∧ 0 ∉ str5 ∧ 0 ∉ ([] : List Byte) := by decide
theorem witness_Number : (9999 : Half).toNat ≤ 9999 ∧ 9999 < (10000 : Half).toNat := by decide
theorem witness_EncoderReply : (Instr.encodeString str5).source = .enc ∧ (∃ t, exec (.encodeString str5) built = .next t) ∧
    ∃ t, exec (.encodeString str5) State.reset = .next t := ⟨rfl, ⟨_, rfl⟩, ⟨_, rfl⟩⟩
theorem witness_EncoderFrame : (Instr.encodeDigit 9).source = .enc ∧ (∃ t, exec (.encodeDigit 9) working = .next t) ∧
    (∀ v, Instr.encodeDigit 9 ≠ .hex v) ∧ ∀ v, Instr.encodeDigit 9 ≠ .number v :=
  ⟨rfl, ⟨_, rfl⟩, fun _ h => (by cases h), fun _ h => (by cases h)⟩
theorem witness_Construct : ((4 : Byte) ≠ 5 ∧ atRest State.reset ∧ State.reset.constructed = false) ∧
    atRest built ∧ built.constructed = true :=
  ⟨⟨by decide, reset_atRest, rfl⟩, built_ready⟩
theorem witness_BrightnessGet : ready built := built_ready
theorem witness_BrightnessSet : ready built := built_ready
/-- Both clauses at both ends of their ranges. -/
theorem witness_Write : ([1, 2, 3, 4, 5, 6] : List Byte).length ≤ 6 ∧ ready built ∧
    (0 ≤ (0 : Byte).toInt ∧ (0 : Byte).toInt ≤ 4) ∧ (0 ≤ (4 : Byte).toInt ∧ (4 : Byte).toInt ≤ 4) ∧
    (0xFF : Byte).toInt < 0 ∧ (0x80 : Byte).toInt < 0 ∧ 4 < (5 : Byte).toInt ∧ 4 < (0x7F : Byte).toInt :=
  ⟨by decide, built_ready, by decide⟩
theorem witness_SegmentBuffer : ([1, 2, 3, 4, 5] : List Byte).length ≤ 6 ∧ ([1, 2, 3, 4, 5] : List Byte).length ≤ (5 : Fin 6).val := by
  decide
theorem witness_Show : str5.length ≤ 65535 ∧ 0 ∉ str5 ∧ ready built := ⟨by decide, by decide, built_ready⟩
theorem witness_SetRaw : ready built := built_ready
theorem witness_SetChar : ready built := built_ready
theorem witness_Scroll : str5.length ≤ 65535 ∧ 0 ∉ str5 ∧ ready built := ⟨by decide, by decide, built_ready⟩
theorem witness_EventCounts : (∃ t, exec .start built = .next t) ∧ (∃ t, exec .stop built = .next t) ∧
    (∃ t, exec (.writeByte 0) built = .next t) ∧ (∃ t, exec (.commandSequence 0) built = .next t) ∧
    (∃ t, exec (.construct 4 5) State.reset = .next t) ∧ (∃ t, exec .brightnessGet built = .next t) ∧
    (∃ t, exec (.brightnessSet 8) built = .next t) ∧ (∃ t, exec (.write 4 [1, 2, 3, 4, 5, 6]) built = .next t) ∧
    (∃ t, exec (.write 5 []) built = .next t) ∧ (∃ t, exec (.write 0xFF []) built = .next t) ∧
    (∃ t, exec (.showText true str5) built = .next t) ∧ (∃ t, exec (.setRaw 0xFF 0) built = .next t) ∧
    (∃ t, exec (.setChar 5 0x23 true) built = .next t) ∧ (∃ t, exec (.scroll 10 str5) built = .next t) ∧
    ∃ t, exec (.hex 0) built = .next t :=
  ⟨⟨_, rfl⟩, ⟨_, rfl⟩, ⟨_, rfl⟩, ⟨_, rfl⟩, ⟨_, rfl⟩, ⟨_, rfl⟩, ⟨_, rfl⟩, ⟨_, rfl⟩, ⟨_, rfl⟩, ⟨_, rfl⟩, ⟨_, rfl⟩, ⟨_, rfl⟩, ⟨_, rfl⟩,
    ⟨_, rfl⟩, ⟨_, rfl⟩⟩
theorem witness_ScrollTakes : (∃ t, exec (.scroll 10 str5) built = .next t) ∧ ∃ t, exec (.scroll 10 []) built = .next t :=
  ⟨⟨_, rfl⟩, ⟨_, rfl⟩⟩
theorem witness_DiagnosticsFirst : ctlOp (.showText true str5) = some .showText ∧ CtlOp.showText ≠ .construct ∧
    CtlOp.showText ≠ .scroll ∧ ∃ t, exec (.showText true str5) built = .next t := ⟨rfl, by decide, by decide, ⟨_, rfl⟩⟩
theorem witness_LastTransaction : hostInstr (.brightnessSet 9) ∧
    ∃ t, exec (.brightnessSet 9) built = .next t ∧ t.bl ≠ built.bl := ⟨.inl rfl, _, rfl, by decide⟩
theorem witness_AppendedEvents : hostInstr (.setRaw 1 2) ∧ built.bright = ({ built with clk := false } : State).bright ∧
    (∃ t, exec (.setRaw 1 2) built = .next t) ∧ ∃ t, exec (.setRaw 1 2) { built with clk := false } = .next t :=
  ⟨.inl rfl, rfl, ⟨_, rfl⟩, ⟨_, rfl⟩⟩
theorem witness_OnlyTwoWriteBright : (∃ t, exec (.write 0 []) built = .next t) ∧ (∀ c d, Instr.write 0 [] ≠ .construct c d) ∧
    ∀ v, Instr.write 0 [] ≠ .brightnessSet v := ⟨⟨_, rfl⟩, fun _ _ h => (by cases h), fun _ h => (by cases h)⟩
theorem witness_ConstructionIsForLife : (withPacket built (.write 0 [])).constructed = true ∧
    ∃ t, step (withPacket built (.write 0 [])) = .next t := ⟨rfl, _, rfl⟩
theorem witness_ObservationsAppended : ∃ t, step (withPacket State.reset (.construct 4 5)) = .next t := ⟨_, rfl⟩

/-- The invariant and the agreement of the two logs hold of a state after construction, and of power-on with a packet to issue. -/
theorem constructed7_inv (i : Instr) (hi : (encode i).fromHost = true) : Inv (withPacket constructed7 i) where
  host := by intro p hp; rw [List.mem_singleton.1 hp]; exact hi
  rest := ⟨rfl, rfl, rfl⟩
  seglen := Nat.zero_le 6
  before := by intro h; cases h
  lines := by intro _; exact ⟨rfl, rfl, rfl, rfl, show (4 : Byte) ≠ 5 by decide⟩
  told := by intro _; show ([[0x40], [0x8F]] : List (List Byte)).getLast? = some [dispByte 7]; decide
theorem constructed7_wireAgrees (i : Instr) : wireAgrees (withPacket constructed7 i) := by
  show List.filter _ _ = _; rfl
theorem reset_inv (i : Instr) (hi : (encode i).fromHost = true) : Inv (withPacket State.reset i) where
  host := by intro p hp; rw [List.mem_singleton.1 hp]; exact hi
  rest := ⟨rfl, rfl, rfl⟩
  seglen := Nat.zero_le 6
  before := by intro _; exact ⟨rfl, rfl, rfl, rfl⟩
  lines := by intro h; cases h
  told := by intro h; cases h
theorem witness_StepKeepsTheInvariant : (Inv (withPacket constructed7 (.write 4 [1])) ∧
      ∃ t, step (withPacket constructed7 (.write 4 [1])) = .next t) ∧
    Inv (withPacket State.reset (.construct 4 5)) ∧ ∃ t, step (withPacket State.reset (.construct 4 5)) = .next t :=
  ⟨⟨constructed7_inv _ rfl, _, rfl⟩, reset_inv _ rfl, _, rfl⟩
theorem witness_StepKeepsAgreement : (Inv (withPacket constructed7 (.scroll 0 str5)) ∧
      wireAgrees (withPacket constructed7 (.scroll 0 str5)) ∧ ∃ t, step (withPacket constructed7 (.scroll 0 str5)) = .next t) ∧
    Inv (withPacket State.reset (.construct 4 5)) ∧ wireAgrees (withPacket State.reset (.construct 4 5)) ∧
      ∃ t, step (withPacket State.reset (.construct 4 5)) = .next t :=
  ⟨⟨constructed7_inv _ rfl, constructed7_wireAgrees _, _, rfl⟩, reset_inv _ rfl, rfl, _, rfl⟩
theorem witness_OnlySendable : hostInbox (withPacket constructed7 (.setRaw 0xFF 0)) ∧
    (∀ b ∈ (withPacket constructed7 (.setRaw 0xFF 0)).bl, sendable b) ∧
    ∃ t, step (withPacket constructed7 (.setRaw 0xFF 0)) = .next t := by
  refine ⟨(constructed7_inv _ rfl).host, ?_, _, rfl⟩
  intro b hb
  rcases List.mem_cons.1 hb with rfl | hb
  · exact .inl rfl
  · rw [List.mem_singleton.1 hb]; exact .inr (.inr (.inl ⟨7, rfl⟩))
theorem witness_SmallSteps : ctlOp (.showText true str5) = some .showText ∧
    exec (.showText true str5) State.reset = .refused .notConstructed ∧
    ∃ t, exec (.showText true str5) built = .next t := ⟨rfl, rfl, _, rfl⟩
/-- A `WRITE` that ends at position 5, and one that goes past it; the receiver has read the byte log before. -/
theorem witness_ReceiverAfterWrite : ((4 : Byte).toNat ≤ 4 ∧ (4 : Byte).toNat + ([1, 2] : List Byte).length ≤ 6 ∧
      6 < (4 : Byte).toNat + ([1, 2, 3] : List Byte).length) ∧ (∃ t, exec (.write 4 [1, 2]) constructed7 = .next t) ∧
    (∃ t, exec (.write 4 [1, 2, 3]) constructed7 = .next t) ∧ ∃ d, Device.unknown.receiveAll constructed7.bl = some d :=
  ⟨by decide, ⟨_, rfl⟩, ⟨_, rfl⟩, _, rfl⟩
theorem witness_ReceiverAfterShow : (∃ t, exec (.showText true str5) constructed7 = .next t) ∧
    (∃ t, exec (.showText true []) constructed7 = .next t) ∧ ∃ d, Device.unknown.receiveAll constructed7.bl = some d :=
  ⟨⟨_, rfl⟩, ⟨_, rfl⟩, _, rfl⟩
theorem witness_ReceiverAfterSetRaw : (5 : Byte).toNat < 6 ∧ (∃ t, exec (.setRaw 5 0xFF) constructed7 = .next t) ∧
    ∃ d, Device.unknown.receiveAll constructed7.bl = some d := ⟨by decide, ⟨_, rfl⟩, _, rfl⟩
theorem witness_InstancesApart : (∃ t, exec (.construct 6 7) State.reset = .next t) ∧ disjointLines State.reset built = true ∧
    ∀ c d, Instr.construct 6 7 = .construct c d → c ≠ built.clkId ∧ c ≠ built.dioId ∧ d ≠ built.clkId ∧ d ≠ built.dioId := by
  refine ⟨⟨_, rfl⟩, by decide, ?_⟩
  intro c d h
  cases h
  decide

/-- Two instances, of which the second is about to be constructed on the lines given; the first has bound 4 and 5. -/
abbrev twoInstances (a b : Byte) : List State := [built, withPacket State.reset (.construct a b)]

/-- R196: an instance constructed on a line of another is refused; on lines of its own it is constructed. -/
theorem test_sharedLine_refused : stepInstance (twoInstances 5 6) ⟨1, by decide⟩ = .refused .sharedLine ∧
    stepInstance (twoInstances 3 4) ⟨1, by decide⟩ = .refused .sharedLine := ⟨rfl, rfl⟩
theorem test_ownLines_constructed : ∃ cs, stepInstance (twoInstances 3 6) ⟨1, by decide⟩ = .next cs := ⟨_, rfl⟩

theorem witness_SharedLinesAreRefused : ¬ validConfiguration [built, built] ∧
    (∀ a b : Byte, validConfiguration (twoInstances a b) ∧ (twoInstances a b)[1].busy = false ∧
      (twoInstances a b)[1].constructed = false ∧ (twoInstances a b)[1].inbox = encode (.construct a b) :: []) ∧
    ((5 : Byte) ≠ 6 ∧ built.constructed = true ∧ built.dioId = 5) ∧
    ((3 : Byte) ≠ 6 ∧ built.clkId ≠ 3 ∧ built.clkId ≠ 6 ∧ built.dioId ≠ 3 ∧ built.dioId ≠ 6) :=
  ⟨by decide, fun _ _ => ⟨by simp [withPacket, disjointLines, State.reset], rfl, rfl, rfl⟩,
    by decide, by decide⟩
theorem witness_OnlyConstructIsRefused : validConfiguration [built, withPacket State.reset (.hex 0)] ∧
    (∃ t, step (withPacket State.reset (.hex 0)) = .next t) ∧
    ∀ (a b : Byte) (rest : List Packet), (withPacket State.reset (.hex 0)).inbox ≠ encode (.construct a b) :: rest :=
  ⟨by decide, ⟨_, rfl⟩, by intro a b rest h; injection h with hp; cases congrArg Packet.source hp⟩
theorem witness_StepOfOneInstance : ∃ cs, stepInstance (twoInstances 3 6) ⟨1, by decide⟩ = .next cs := ⟨_, rfl⟩

end Sys2Proof.Tests
end

section
/-! PROOFS, family 00_scope: what a step in any state has done, and that the observations (`TR`, `BL`, the replies) only grow. -/

namespace Sys2Proof.Machine

/-- Everything a step of any packet has done (R60): nothing is issued, or the head packet is decoded and its instruction runs.
Unlike `step_did` it asks nothing of the packets, so an internal instruction can be the one that runs. -/
theorem step_next {s t : State} (h : step s = .next t) :
    (s.inbox = [] ∧ t = s) ∨
      ∃ p rest i, s.inbox = p :: rest ∧ decode p = .ok i ∧ exec i { s with inbox := rest } = .next t := by
  unfold step issueNext at h
  split at h
  · next hempty => cases h; exact .inl ⟨hempty, rfl⟩
  · next p rest hhead =>
    unfold runPacket at h
    split at h
    · cases h
    · next i hdecode => exact .inr ⟨p, rest, i, hhead, hdecode, h⟩

/-- R8, R68: an instruction of a port or an internal one, in any state, only appends to the observations. -/
theorem exec_only_appends {i : Instr} {s t : State} (h : exec i s = .next t) :
    s.tr <+: t.tr ∧ s.bl <+: t.bl ∧ s.replies <+: t.replies := by
  by_cases hi : Safety.hostInstr i
  · have did := exec_did hi h
    exact ⟨⟨_, did.tr.symm⟩, ⟨_, did.bl.symm⟩, ⟨_, did.replies.symm⟩⟩
  · obtain ⟨events, txns, htr, hbl, hrest⟩ := exec_internal hi h
    have hreplies : t.replies = s.replies := by rw [hrest]
    exact ⟨⟨events, htr.symm⟩, ⟨txns, hbl.symm⟩, hreplies ▸ List.prefix_rfl⟩

/-- Settles O44: a step issues nothing, or runs one instruction, which only appends. -/
theorem observationsAreOnlyAppended : Obligations.ObservationsAreOnlyAppended := by
  intro s t h
  rcases step_next h with ⟨_, rfl⟩ | ⟨_, _, _, _, _, hexec⟩
  · exact ⟨List.prefix_rfl, List.prefix_rfl, List.prefix_rfl⟩
  · have hgrown := exec_only_appends hexec
    exact hgrown

end Sys2Proof.Machine
end

section
/-! PROOFS, family 10_state: the invariant of CORE, what writes `BRIGHT`, the lines and the segment buffer. -/

namespace Sys2Proof.Machine

open Sys2Proof.Safety

/-! The last transaction of an operation (R160). -/

/-- When every group ends with `b`, so does a nonempty sequence of groups. -/
theorem getLast?_flatMap_const {α β : Type} {f : α → List β} {b : β} (hf : ∀ a, (f a).getLast? = some b) {l : List α}
    (hl : l ≠ []) : (l.flatMap f).getLast? = some b := by
  obtain rfl | ⟨front, a, rfl⟩ := l.eq_nil_or_concat
  · exact absurd rfl hl
  · simp [List.getLast?_append, hf]

/-- R160: what an operation sends, if anything, ends with the display-control byte of the `BRIGHT` after it; an operation that sends
nothing leaves `BRIGHT` alone. -/
theorem appendedTxns_tell_bright (i : Instr) (b : BitVec 3) :
    (appendedTxns i b = [] ∧ brightAfter i b = b) ∨
      (appendedTxns i b).getLast? = some [dispByte (brightAfter i b)] := by
  cases i with
  | construct | brightnessSet | showText | setRaw | setChar => exact .inr rfl
  | write pos segs =>
    cases hpos : positionValid pos
    · exact .inl ⟨by simp [appendedTxns, hpos], rfl⟩
    · exact .inr (by simp [appendedTxns, hpos, autoTxns, brightAfter])
  | scroll delayMs str =>
    cases str with
    | nil => exact .inl ⟨rfl, rfl⟩
    | cons c rest => exact .inr (getLast?_flatMap_const (fun _ => rfl) (by simp [windows]))
  | brightnessGet | encodeDigit | encodeChar | encodeString | hex | number | start | stop | writeByte | commandSequence
  | busDataAutoinc | busDataFixed | busDisplayCtrl | busAddress => exact .inl ⟨rfl, rfl⟩

/-! The invariant. -/

/-- The invariant does not need the packet that is issued. -/
theorem inv_issued {s : State} {p : Packet} {rest : List Packet} (hinv : Inv s) (hhead : s.inbox = p :: rest) :
    Inv { s with inbox := rest } where
  host := fun q hq => hinv.host q (hhead ▸ List.mem_cons_of_mem p hq)
  rest := hinv.rest
  seglen := hinv.seglen
  before := hinv.before
  lines := hinv.lines
  told := hinv.told

/-- CORE is at rest after an operation of a port (R23, R27, R28). -/
theorem Did.atRest {i : Instr} {s t : State} (did : Did i s t) (hi : hostInstr i) (hs : atRest s) : atRest t := by
  rcases hi with hctl | henc
  · exact (did.ctl hctl).2
  · obtain ⟨hbusy, htxn, hseq, _⟩ := did.enc henc
    obtain ⟨hsBusy, hsTxn, hsSeq⟩ := hs
    exact ⟨hbusy.trans hsBusy, htxn.trans hsTxn, hseq.trans hsSeq⟩

/-- If CORE is still unconstructed after an operation of a port, that was one of the encoder, which leaves the lines and the
logs alone (R84, R130). -/
theorem Did.of_unconstructed {i : Instr} {s t : State} (did : Did i s t) (hi : hostInstr i) (ht : t.constructed = false) :
    s.constructed = false ∧ t.clkDir = s.clkDir ∧ t.dioDir = s.dioDir ∧ t.tr = s.tr ∧ t.bl = s.bl := by
  cases hcon : isConstruct i with
  | true =>
    have hset := (did.con hcon).2.1
    exact absurd (hset.symm.trans ht) (by decide)
  | false =>
    obtain ⟨hkept, hclk, hdio, _, _, hneeds, _⟩ := did.other hcon
    have hs : s.constructed = false := hkept ▸ ht
    rcases hi with hctl | henc
    · exact absurd ((hneeds hctl).symm.trans hs) (by decide)
    · obtain ⟨_, _, _, htr, hbl, _⟩ := did.enc henc
      exact ⟨hs, hclk, hdio, htr, hbl⟩

/-- The lines of a constructed CORE after an operation of a port: `CONSTRUCT` has set them up, or the others have left both
at 1 (R25, R26). -/
theorem Did.lines {i : Instr} {s t : State} (did : Did i s t) (hs : Inv s) (ht : t.constructed = true) :
    t.clkDir = .out ∧ t.dioDir = .out ∧ t.clk = true ∧ t.dio = true ∧ t.clkId ≠ t.dioId := by
  cases hcon : isConstruct i with
  | true =>
    obtain ⟨_, _, hclkDir, hdioDir, hclk, hdio, _, hne⟩ := did.con hcon
    exact ⟨hclkDir, hdioDir, hclk, hdio, hne⟩
  | false =>
    obtain ⟨hkept, hclkDir, hdioDir, hclkId, hdioId, _, hlevels⟩ := did.other hcon
    obtain ⟨hsClkDir, hsDioDir, hsClk, hsDio, hsNe⟩ := hs.lines (hkept ▸ ht)
    have hhigh : t.clk = true ∧ t.dio = true := by
      rcases hlevels with hset | ⟨hclk, hdio⟩
      · exact hset
      · exact ⟨hclk.trans hsClk, hdio.trans hsDio⟩
    exact ⟨hclkDir.trans hsClkDir, hdioDir.trans hsDioDir, hhigh.1, hhigh.2, by rw [hclkId, hdioId]; exact hsNe⟩

/-- The last transaction tells the device the `BRIGHT` after an operation of a port, as it told it the one before (R160). -/
theorem Did.told {i : Instr} {s t : State} (did : Did i s t) (hs : Inv s) (ht : t.constructed = true) :
    t.bl.getLast? = some [dispByte t.bright] := by
  rw [did.bl, did.bright, List.getLast?_append]
  rcases appendedTxns_tell_bright i s.bright with ⟨hnone, hbright⟩ | hlast
  · have hcon : isConstruct i = false := by
      cases i with
      | construct => cases hnone
      | _ => rfl
    have hkept := (did.other hcon).1
    rw [hnone, hbright, hs.told (hkept ▸ ht)]
    rfl
  · rw [hlast]
    rfl

/-- An operation of a port keeps the invariant. -/
theorem Did.inv {i : Instr} {s t : State} (did : Did i s t) (hi : hostInstr i) (hs : Inv s) : Inv t where
  host := by
    intro p hp
    rw [did.inbox] at hp
    exact hs.host p hp
  rest := did.atRest hi hs.rest
  seglen := did.seglen hs.seglen
  before := by
    intro ht
    obtain ⟨hunc, hclk, hdio, htr, hbl⟩ := did.of_unconstructed hi ht
    rw [hclk, hdio, htr, hbl]
    exact hs.before hunc
  lines := did.lines hs
  told := did.told hs

/-- Settles O48: a step issues nothing, or runs one operation of a port, which keeps the invariant. -/
theorem stepKeepsTheInvariant : Obligations.StepKeepsTheInvariant := by
  intro s t hs h
  rcases step_did hs.host h with ⟨_, rfl⟩ | ⟨_, _, _, hhead, hi, _, did⟩
  · exact hs
  · exact did.inv hi (inv_issued hs hhead)

/-- Settles O47: at power-on the host has issued nothing, CORE is idle and unconstructed, and both logs are empty. -/
theorem invariantAtPowerOn : Obligations.InvariantAtPowerOn := by
  refine ⟨?_, rfl⟩
  exact
    { host := fun p hp => absurd hp List.not_mem_nil
      rest := ⟨rfl, rfl, rfl⟩
      seglen := Nat.zero_le 6
      before := fun _ => ⟨rfl, rfl, rfl, rfl⟩
      lines := fun h => absurd h (by decide)
      told := fun h => absurd h (by decide) }

/-! `BRIGHT`, the line identifiers and directions, the segment buffer (R24 to R27, R29). -/

theorem brightAfter_of_other {i : Instr} (hcon : ∀ c d, i ≠ .construct c d) (hset : ∀ v, i ≠ .brightnessSet v)
    (b : BitVec 3) : brightAfter i b = b := by
  cases i with
  | construct c d => exact absurd rfl (hcon c d)
  | brightnessSet v => exact absurd rfl (hset v)
  | _ => rfl

/-- Settles O42: an operation of a port leaves `BRIGHT` as `brightAfter` says, and an internal instruction does not reach it. -/
theorem onlyTwoOperationsWriteBright : Obligations.OnlyTwoOperationsWriteBright := by
  intro i s t h hcon hset
  by_cases hi : hostInstr i
  · rw [(exec_did hi h).bright, brightAfter_of_other hcon hset]
  · obtain ⟨_, _, _, _, hrest⟩ := exec_internal hi h
    rw [hrest]

/-- `CONSTRUCT` is refused once constructed, and no other instruction writes `CONSTRUCTED`, the line identifiers or the
directions (R25 to R27, R84). -/
theorem exec_keeps_construction {i : Instr} {s t : State} (hs : s.constructed = true) (h : exec i s = .next t) :
    t.constructed = true ∧ t.clkId = s.clkId ∧ t.dioId = s.dioId ∧ t.clkDir = s.clkDir ∧ t.dioDir = s.dioDir := by
  by_cases hi : hostInstr i
  · have did := exec_did hi h
    cases hcon : isConstruct i with
    | true =>
      have hunc := (did.con hcon).1
      exact absurd (hs.symm.trans hunc) (by decide)
    | false =>
      obtain ⟨hkept, hclkDir, hdioDir, hclkId, hdioId, _, _⟩ := did.other hcon
      exact ⟨hkept.trans hs, hclkId, hdioId, hclkDir, hdioDir⟩
  · obtain ⟨_, _, _, _, hrest⟩ := exec_internal hi h
    rw [hrest]
    exact ⟨hs, rfl, rfl, rfl, rfl⟩

/-- Settles O43: a step issues nothing, or runs one instruction in a constructed CORE. -/
theorem constructionIsForLife : Obligations.ConstructionIsForLife := by
  intro s t hs h
  rcases step_next h with ⟨_, rfl⟩ | ⟨_, rest, _, _, _, hexec⟩
  · exact ⟨hs, rfl, rfl, rfl, rfl⟩
  · have hissued : ({ s with inbox := rest } : State).constructed = true := hs
    have hkept := exec_keeps_construction hissued hexec
    exact hkept

/-- The entries of `SEGBUF` past what is loaded keep their values (notes/assumptions/17.md). -/
theorem State.loadSegs_segbuf_of_le (s : State) {segs : List Byte} {k : Fin 6} (hk : segs.length ≤ k.val) :
    (s.loadSegs segs).segbuf[k] = s.segbuf[k] := by
  simp [List.getD_eq_getElem?_getD, List.getElem?_eq_none hk]

/-- Settles O31: the loaded values are read back, and the entries past them are not written. -/
theorem segmentBufferHoldsWhatWasLoaded : Obligations.SegmentBufferHoldsWhatWasLoaded := by
  intro s segs hlen
  exact ⟨s.loadSegs_seglen segs, s.bufferedSegs_loadSegs segs hlen, fun k hk => s.loadSegs_segbuf_of_le hk⟩

end Sys2Proof.Machine
end

section
/-! PROOFS, family 10_state: the body of each `CTL` operation by its name in `SEQ`, and the operand latches (R21). -/

namespace Sys2Proof.Machine

open Sys2Proof.Safety

/-- The body `exec` runs for an operation of the `CTL` port, its operands read from the latches (R21); tied to `exec` by
`exec_eq_runCtl`. -/
def State.ctlBody (op : CtlOp) (s : State) : State :=
  match op with
  | .construct => s.constructBody
  | .brightnessGet => s.brightnessGetBody
  | .brightnessSet => s.brightnessSetBody s.x.v
  | .write => s.writeBody s.x.segs s.x.pos
  | .showText => s.showBody s.x.s s.x.flag
  | .setRaw => s.setRawBody s.x.pos s.x.data
  | .setChar => s.setCharBody s.x.pos s.x.ch s.x.flag
  | .scroll => s.scrollBody s.x.s s.x.delayMs

theorem exec_eq_runCtl {i : Instr} {op : CtlOp} (hop : ctlOp i = some op) (s : State) :
    exec i s = runCtl op i (State.ctlBody op) s := by
  cases i <;> cases hop <;> rfl

/-- The operations of the `CTL` port are the instructions that have a name in `SEQ` (R80). -/
theorem source_eq_ctl_iff (i : Instr) : i.source = .ctl ↔ ∃ op, ctlOp i = some op := by
  cases i <;> simp [Instr.source, ctlOp]

/-- An operation of the `ENC` port replies, and does not touch the latches itself (R130). -/
theorem exec_enc_x {i : Instr} {s t : State} (hi : i.source = .enc) (h : exec i s = .next t) : t.x = (s.latch i).x := by
  have hbody : ∀ {body : State → State}, exec i s = runEnc i body s → (∀ u, (body u).x = u.x) → t.x = (s.latch i).x := by
    intro body hexec hx
    obtain ⟨_, rfl⟩ := runEnc_next (hexec.symm.trans h)
    exact hx (s.latch i)
  cases i with
  | encodeDigit d => exact hbody (exec_encodeDigit s d) fun _ => rfl
  | encodeChar c => exact hbody (exec_encodeChar s c) fun _ => rfl
  | encodeString str => exact hbody (exec_encodeString s str) fun _ => rfl
  | hex value => exact hbody (exec_hex s value) fun _ => rfl
  | number value => exact hbody (exec_number s value) fun _ => rfl
  | _ => cases hi

@[simp] theorem State.writeBody_x (s : State) (segs : List Byte) (pos : Byte) : (s.writeBody segs pos).x = s.x := by
  cases hpos : positionValid pos
  · rw [State.writeBody_invalid s segs pos hpos]
  · simp [State.writeBody, hpos, State.uopCommandSequence_eq, State.dataTransaction_eq, State.sendDisplayControl_eq]

/-- No body of a `CTL` operation writes a latch (notes/assumptions/7.md). -/
theorem State.ctlBody_x (op : CtlOp) (s : State) : (s.ctlBody op).x = s.x := by
  cases op with
  | construct => simp [State.ctlBody, State.constructBody_eq]
  | brightnessGet => rfl
  | brightnessSet => simp [State.ctlBody, State.brightnessSetBody_eq]
  | write => exact s.writeBody_x _ _
  | showText => simp [State.ctlBody, State.showBody_eq]
  | setRaw => simp [State.ctlBody, State.setRawBody_eq]
  | setChar => simp [State.ctlBody, State.setCharBody_eq]
  | scroll =>
    by_cases hstr : s.x.s = []
    · simp [State.ctlBody, hstr, State.scrollBody_nil]
    · simp [State.ctlBody, State.scrollBody_eq _ _ _ hstr]

/-- After an operation of a port the latches are what its acceptance made them. -/
theorem exec_x {i : Instr} {s t : State} (hi : hostInstr i) (h : exec i s = .next t) : t.x = (s.latch i).x := by
  rcases hi with hctl | henc
  · obtain ⟨op, hop⟩ := (source_eq_ctl_iff i).1 hctl
    rw [exec_eq_runCtl hop] at h
    obtain ⟨_, rfl⟩ := runCtl_next h
    exact State.ctlBody_x op (s.accept op i)
  · exact exec_enc_x henc h

theorem latched_opc {i : Instr} (hi : hostInstr i) (free : Latches) : (latched i free).opc = i.opcode := by
  cases i with
  | start | stop | writeByte | commandSequence | busDataAutoinc | busDataFixed | busDisplayCtrl | busAddress =>
    rcases hi with hi | hi <;> cases hi
  | _ => rfl

/-- Settles O9: the latches after an operation are those its acceptance made, which are untouched while `BUSY = 1` and hold the
operands otherwise. -/
theorem latchesHoldTheOperands : Obligations.LatchesHoldTheOperands := by
  intro i s t hi h
  have hx := exec_x hi h
  refine ⟨fun hbusy => by rw [hx, s.latch_of_busy i hbusy], fun hbusy => ?_⟩
  rw [s.latch_of_not_busy i hbusy] at hx
  rw [hx]
  refine ⟨latched_opc hi _, ?_, ?_, ?_, ?_, ?_, ?_, ?_, ?_, ?_, ?_, ?_⟩
  · rintro _ _ rfl; exact ⟨rfl, rfl⟩
  · rintro _ rfl; rfl
  · rintro _ _ rfl; exact ⟨rfl, rfl⟩
  · rintro _ _ rfl; exact ⟨rfl, rfl⟩
  · rintro _ _ rfl; exact ⟨rfl, rfl⟩
  · rintro _ _ _ rfl; exact ⟨rfl, rfl, rfl⟩
  · rintro _ _ rfl; exact ⟨rfl, rfl⟩
  · rintro _ rfl; rfl
  · rintro _ rfl; rfl
  · rintro _ rfl; rfl
  · rintro _ (rfl | rfl) <;> rfl

end Sys2Proof.Machine
end

section
/-! PROOFS, family 10_state: the small-step reading of each `CTL` operation ends in its big step (R23). -/

namespace Sys2Proof.Machine

open Sys2Proof.Safety

theorem microSteps_append (a b : List (List Byte)) : microSteps (a ++ b) = microSteps a + microSteps b := by
  simp [microSteps]

/-! The delays of an operation are the micro-steps of what it sends (R114, R116). -/

theorem delays_scroll (delayMs : Half) (b : BitVec 3) (ws : List (Vector Byte 4)) :
    (ws.flatMap fun w => roundWave delayMs w b).countP isDelay =
      microSteps (ws.flatMap fun w => autoTxns 0 (encodeString w.toList).1 b) := by
  induction ws with
  | nil => rfl
  | cons w rest ih =>
    have hround : (roundWave delayMs w b).countP isDelay = microSteps (autoTxns 0 (encodeString w.toList).1 b) := by
      simp only [roundWave, List.cons_append, List.countP_cons, List.countP_append, delays_diags, delays_log]
      simp [isDelay]
    rw [List.flatMap_cons, List.flatMap_cons, List.countP_append, microSteps_append, hround, ih]

theorem delays_appendedEvents (i : Instr) (b : BitVec 3) :
    (appendedEvents i b).countP isDelay = microSteps (appendedTxns i b) := by
  cases i with
  | construct c d => exact (List.countP_append ..).trans (by rw [delays_log]; exact Nat.zero_add _)
  | brightnessSet v =>
    have hdiag : (if 7 < v.toNat then [Event.diag (.brightnessRange v)] else []).countP isDelay = 0 := by
      split <;> rfl
    rw [appendedEvents, List.countP_append, hdiag, delays_log, Nat.zero_add, appendedTxns]
  | write pos segs =>
    cases hpos : positionValid pos
    · simp [appendedEvents, appendedTxns, hpos, isDelay, microSteps]
    · simp [appendedEvents, appendedTxns, hpos, delays_log]
  | showText colon str => rw [appendedEvents, List.countP_append, delays_diags, delays_log, Nat.zero_add, appendedTxns]
  | setRaw pos data => exact delays_log _
  | setChar pos ch dot => rw [appendedEvents, List.countP_append, delays_diags, delays_log, Nat.zero_add, appendedTxns]
  | scroll delayMs str => exact delays_scroll delayMs b _
  | _ => rfl

/-! The run of each operation, from the state in which the port has accepted it. -/

/-- Where the small-step reading of an accepted operation starts; tied to `beginCtl` by `beginCtl_of_accepted`. -/
def State.smallStart (op : CtlOp) (s : State) : State :=
  match op with
  | .scroll => (s.setWin blankWindow).enterRound
  | _ => s.enterRound

theorem beginCtl_of_accepted {op : CtlOp} {i : Instr} {s : State} (h : ctlRefusal op i s = none) :
    beginCtl op i s = .next ((s.accept op i).smallStart op) := by
  unfold beginCtl
  rw [h]
  cases op <;> rfl

theorem beginCtl_of_refused {op : CtlOp} {i : Instr} {s : State} {r : Refusal} (h : ctlRefusal op i s = some r) :
    beginCtl op i s = .refused r := by
  unfold beginCtl
  rw [h]

/-- The transactions the operation `op` sends, as its latches and `BRIGHT` say at acceptance. -/
def State.plannedTxns (op : CtlOp) (s : State) : List (List Byte) :=
  match op with
  | .construct => brightTxns Config.defaultBrightness
  | .brightnessGet => []
  | .brightnessSet => brightTxns (maskBright s.x.v)
  | .write => if positionValid s.x.pos then autoTxns s.x.pos s.x.segs s.bright else []
  | .showText => autoTxns 0 (withColon s.x.flag (encodeString s.x.s).1) s.bright
  | .setRaw => fixedTxns s.x.pos s.x.data s.bright
  | .setChar => fixedTxns s.x.pos (withDot s.x.flag (encodeChar s.x.ch).1) s.bright
  | .scroll => (windows blankWindow s.x.s).flatMap fun w => autoTxns 0 (encodeString w.toList).1 s.bright

/-- What a sending operation has done before its first micro-step, `SEQ` and `TXN` aside; tied to the model by
`enterRound_of_sends`. -/
def State.setUp (op : CtlOp) (s : State) : State :=
  match op with
  | .construct =>
    ((((({ s with clkId := s.x.clkId, dioId := s.x.dioId }.cfgLine .clk).cfgLine .dio).setLine .clk false).setLine .dio
      false).setBright Config.defaultBrightness)
  | .brightnessSet =>
    (s.raiseDiags (if 7 < s.x.v.toNat then [.brightnessRange s.x.v] else [])).setBright (maskBright s.x.v)
  | .write => s.loadSegs s.x.segs
  | .showText => (s.raiseDiags (encodeString s.x.s).2).loadSegs (withColon s.x.flag (encodeString s.x.s).1)
  | .setChar => s.raiseDiags (encodeChar s.x.ch).2
  | .brightnessGet | .setRaw | .scroll => s

theorem State.setUp_seq (op : CtlOp) (s : State) : (s.setUp op).seq = s.seq := by
  cases op <;> rfl

theorem State.setUp_busy (op : CtlOp) (s : State) : (s.setUp op).busy = s.busy := by
  cases op <;> rfl

/-- What the last micro-step of an operation of one round does; tied to the model by `leaveRound_of_op`. -/
def State.closeOp (op : CtlOp) (s : State) : State :=
  match op with
  | .construct => s.setConstructed.finish
  | _ => s.finish

theorem leaveRound_of_op {s : State} {op : CtlOp} (hop : s.seq.op = some op) (hone : op ≠ .scroll) :
    s.leaveRound = s.closeOp op := by
  unfold State.leaveRound
  rw [hop]
  cases op with
  | scroll => exact absurd rfl hone
  | _ => rfl

theorem sends_write_iff (s : State) : s.plannedTxns .write ≠ [] ↔ positionValid s.x.pos = true := by
  simp [State.plannedTxns, autoTxns]

/-- What is set up, sent and closed is together the big step. -/
theorem closeOp_sent {s : State} {op : CtlOp} (hone : op ≠ .scroll) (hfits : op = .write → s.x.segs.length ≤ 6)
    (hsends : s.plannedTxns op ≠ []) (k : Nat) :
    ((s.setUp op).sent k (s.plannedTxns op)).closeOp op = (s.ctlBody op).finish := by
  cases op with
  | brightnessGet => exact absurd rfl hsends
  | scroll => exact absurd rfl hone
  | construct =>
    simp [State.ctlBody, State.constructBody_eq, State.setUp, State.sent, State.finish, State.plannedTxns,
      State.setConstructed, State.cfgLine, State.setLine, State.setBright, State.closeOp]
  | brightnessSet =>
    by_cases hrange : 7 < s.x.v.toNat <;>
      simp [State.ctlBody, State.brightnessSetBody_eq, hrange, State.setUp, State.sent, State.finish, State.plannedTxns,
        State.raiseDiags, State.emit, State.setBright, State.closeOp]
  | write =>
    have hpos := (sends_write_iff s).1 hsends
    simp [State.ctlBody, State.writeBody_valid _ _ _ hpos (hfits rfl), State.setUp, State.sent, State.finish,
      State.plannedTxns, hpos, State.closeOp]
  | showText =>
    simp [State.ctlBody, State.showBody_eq, State.setUp, State.sent, State.finish, State.plannedTxns, State.raiseDiags,
      State.emit, State.loadSegs, State.closeOp]
  | setRaw =>
    simp [State.ctlBody, State.setRawBody_eq, State.setUp, State.sent, State.finish, State.plannedTxns, State.closeOp]
  | setChar =>
    simp [State.ctlBody, State.setCharBody_eq, State.setUp, State.sent, State.finish, State.plannedTxns,
      State.raiseDiags, State.emit, State.closeOp]

section
variable {s : State} {op : CtlOp} (hop : s.seq.op = some op) (hone : op ≠ .scroll)
include hop hone

/-- An operation that sends something enters its one round at the first micro-step of its first transaction. -/
theorem enterRound_of_sends (hsends : s.plannedTxns op ≠ []) : s.enterRound = (s.setUp op).toTxn 0 := by
  unfold State.enterRound
  rw [hop]
  cases op with
  | brightnessGet => exact absurd rfl hsends
  | scroll => exact absurd rfl hone
  | write => exact if_pos ((sends_write_iff s).1 hsends)
  | _ => rfl

/-- An operation that sends nothing ends at acceptance: `BRIGHTNESS_GET`, or `WRITE` at a position it refuses (R151, R182). -/
theorem enterRound_of_silent (hsilent : s.plannedTxns op = []) : s.enterRound = (s.ctlBody op).finish := by
  unfold State.enterRound
  rw [hop]
  cases op with
  | brightnessGet => rfl
  | scroll => exact absurd rfl hone
  | write =>
    have hpos : ¬ positionValid s.x.pos = true := fun hpos => (sends_write_iff s).2 hpos hsilent
    simp [State.ctlBody, State.writeBody, hpos]
  | _ => cases hsilent

variable (hfits : op = .write → s.x.segs.length ≤ 6) (hsends : s.plannedTxns op ≠ [])
include hfits hsends

/-- In its round an operation sends what was planned at acceptance. -/
theorem roundTxns_setUp : (s.setUp op).roundTxns = s.plannedTxns op := by
  unfold State.roundTxns
  rw [State.setUp_seq, hop]
  cases op with
  | brightnessGet => exact absurd rfl hsends
  | scroll => exact absurd rfl hone
  | write =>
    have hpos := (sends_write_iff s).1 hsends
    have hbuffer := s.bufferedSegs_loadSegs s.x.segs (hfits rfl)
    simp [State.setUp, State.plannedTxns, hpos, hbuffer, autoTxns, cmdDataAuto_eq, addressByte_eq, displayByte_eq]
  | showText =>
    have hbuffer := (s.raiseDiags (encodeString s.x.s).2).bufferedSegs_loadSegs _ (shown_length s.x.flag s.x.s)
    simp only [State.setUp, hbuffer]
    rfl
  | _ => rfl

/-- The end of the round (R60, R158): what was set up and what was sent are together the big step. -/
theorem leaveRound_setUp (k : Nat) :
    ((s.setUp op).sent k (s.plannedTxns op)).leaveRound = (s.ctlBody op).finish := by
  have hsent : ((s.setUp op).sent k (s.plannedTxns op)).seq.op = some op :=
    (congrArg Seq.op (s.setUp_seq op)).trans hop
  rw [leaveRound_of_op hsent hone, closeOp_sent hone hfits hsends]

end

/-- No planned transaction is empty (R97). -/
theorem ne_nil_of_mem_plannedTxns {op : CtlOp} {s : State} {t : List Byte} (ht : t ∈ s.plannedTxns op) : t ≠ [] := by
  rintro rfl
  cases op <;> simp [State.plannedTxns, brightTxns, autoTxns, fixedTxns] at ht

/-- The micro-steps of the rounds of `SCROLL`: 204 each (R159). -/
theorem microSteps_rounds (b : BitVec 3) (ws : List (Vector Byte 4)) :
    microSteps (ws.flatMap fun w => autoTxns 0 (encodeString w.toList).1 b) = 204 * ws.length := by
  induction ws with
  | nil => rfl
  | cons w rest ih =>
    have hround : microSteps (autoTxns 0 (encodeString w.toList).1 b) = 204 := by
      simp [microSteps, autoTxns, encodeString_length]
    rw [List.flatMap_cons, microSteps_append, hround, ih, List.length_cons]
    omega

/-- An operation other than `SCROLL`: nothing to send, or one round. -/
theorem busyRun_oneRound {s : State} {op : CtlOp} (hop : s.seq.op = some op) (hone : op ≠ .scroll) (hbusy : s.busy = true)
    (hfits : op = .write → s.x.segs.length ≤ 6) :
    BusyRun (microSteps (s.plannedTxns op)) s.enterRound (s.ctlBody op).finish := by
  by_cases hsends : s.plannedTxns op = []
  · rw [enterRound_of_silent hop hone hsends, hsends]
    exact BusyRun.zero _
  · have hround := busyRun_round (s.plannedTxns op) (s.setUp op) ((s.setUp_busy op).trans hbusy)
      (roundTxns_setUp hop hone hfits hsends) hsends fun _ ht => ne_nil_of_mem_plannedTxns ht
    rw [leaveRound_setUp hop hone hfits hsends] at hround
    rw [enterRound_of_sends hop hone hsends]
    exact hround

/-- R23: the small steps of an accepted operation lead to the end of its big step. -/
theorem busyRun_smallStart {s : State} {op : CtlOp} (hseq : s.seq = { Seq.idle with op := some op })
    (hbusy : s.busy = true) (hfits : op = .write → s.x.segs.length ≤ 6) :
    BusyRun (microSteps (s.plannedTxns op)) (s.smallStart op) (s.ctlBody op).finish := by
  have hop : s.seq.op = some op := by rw [hseq]
  cases op with
  | scroll =>
    have hrounds := busyRun_scroll s.x.s 0 (s.setWin blankWindow) hop hbusy rfl (by simp [hseq, Seq.idle])
    rw [State.plannedTxns, microSteps_rounds, windows_length]
    exact hrounds
  | _ => exact busyRun_oneRound hop (by decide) hbusy hfits

/-! The operations as the port accepts them. -/

/-- What an accepted operation plans to send is what its big step appends to `BL` (R68). -/
theorem plannedTxns_accept {i : Instr} {op : CtlOp} {s : State} (hop : ctlOp i = some op) (hbusy : s.busy = false) :
    (s.accept op i).plannedTxns op = appendedTxns i s.bright := by
  rw [s.accept_of_not_busy op i hbusy]
  cases i <;> cases hop <;> rfl

/-- An accepted `WRITE` has latched at most six segment values (`WF_SEGLEN`). -/
theorem accept_segs_length {i : Instr} {op : CtlOp} {s : State} (hop : ctlOp i = some op) (hbusy : s.busy = false)
    (hwf : i.illFormed = none) (hwrite : op = .write) : (s.accept op i).x.segs.length ≤ 6 := by
  subst hwrite
  rw [s.accept_of_not_busy _ i hbusy]
  cases i with
  | write pos segs => exact write_length hwf
  | _ => cases hop

/-- The two readings refuse an operation alike. -/
theorem beginCtl_refused_of_exec {i : Instr} {op : CtlOp} {s : State} (hop : ctlOp i = some op) {r : Refusal}
    (h : exec i s = .refused r) : beginCtl op i s = .refused r := by
  rw [exec_eq_runCtl hop] at h
  unfold runCtl at h
  split at h
  · next hr => cases h; exact beginCtl_of_refused hr
  · cases h

/-- The small-step reading of an operation the big step accepts. -/
theorem busyRun_of_exec {i : Instr} {op : CtlOp} {s t : State} (hop : ctlOp i = some op) (h : exec i s = .next t) :
    ∃ u, beginCtl op i s = .next u ∧ BusyRun (microSteps (appendedTxns i s.bright)) u t := by
  rw [exec_eq_runCtl hop] at h
  obtain ⟨⟨hwf, hbusy, hcon⟩, rfl⟩ := runCtl_next h
  refine ⟨_, beginCtl_of_accepted ((ctlRefusal_none op i s).2 ⟨hwf, hbusy, hcon⟩), ?_⟩
  rw [← plannedTxns_accept hop hbusy]
  exact busyRun_smallStart rfl rfl (accept_segs_length hop hbusy hwf)

/-- Settles O51: the two readings refuse alike, and the small steps of an accepted operation, one for each delay of its big step, end
where the big step ends. -/
theorem smallStepsEndInTheBigStep : Obligations.SmallStepsEndInTheBigStep := by
  intro i op s hop
  refine ⟨fun r h => beginCtl_refused_of_exec hop h, fun t h => ?_⟩
  have hctl : i.source = .ctl := (source_eq_ctl_iff i).2 ⟨op, hop⟩
  have did := exec_did (.inl hctl) h
  obtain ⟨_, hidle, _⟩ := did.ctl hctl
  obtain ⟨u, hbegin, hend, hbusy⟩ := busyRun_of_exec hop h
  rw [← delays_appendedEvents] at hend hbusy
  exact ⟨u, _, hbegin, did.tr, hend, hidle, hbusy⟩

end Sys2Proof.Machine
end

section
/-! PROOFS, family 20_memory: the step of a packet that decodes, the agreement of `TR` and `BL`, and that the waveform determines the
byte log (R60, R68). -/

namespace Sys2Proof.Machine

open Sys2Proof.Safety

/-! The step (R60, R81). -/

/-- With a packet to issue, a step takes it from the inbox and runs it. -/
theorem step_of_head {s : State} {p : Packet} {rest : List Packet} (hhead : s.inbox = p :: rest) :
    step s = runPacket p { s with inbox := rest } := by
  rw [step, issueNext, hhead]

theorem runPacket_of_decodes {p : Packet} {i : Instr} (hdecode : decode p = .ok i) (s : State) :
    runPacket p s = exec i s := by
  rw [runPacket, hdecode]

/-- Settles O6: the head packet is issued, and running it is `exec` of what it decodes to. -/
theorem stepRunsTheDecodedInstruction : Obligations.StepRunsTheDecodedInstruction := by
  intro s p rest i hhead hdecode
  rw [step_of_head hhead, runPacket_of_decodes hdecode]

/-! The agreement of `TR` and `BL` (R68). -/

/-- The line events of the line setup, which only `CONSTRUCT` makes (R150). -/
def setupEvents (constructs : Bool) : List Event :=
  if constructs then [.set .clk false, .set .dio false] else []

theorem wireAgrees_iff (s : State) :
    wireAgrees s ↔ s.tr.filter isLineEvent = setupEvents s.constructed ++ logWave s.bl := Iff.rfl

/-- The line events of the rounds of a `SCROLL` are the waveform of what the rounds send (R157). -/
theorem filter_rounds (delayMs : Half) (b : BitVec 3) (ws : List (Vector Byte 4)) :
    (ws.flatMap fun w => roundWave delayMs w b).filter isLineEvent =
      logWave (ws.flatMap fun w => autoTxns 0 (encodeString w.toList).1 b) := by
  induction ws with
  | nil => rfl
  | cons w rest ih =>
    have hround : (roundWave delayMs w b).filter isLineEvent = logWave (autoTxns 0 (encodeString w.toList).1 b) := by
      simp [roundWave, isLineEvent, filter_diags, filter_log]
    rw [List.flatMap_cons, List.flatMap_cons, List.filter_append, logWave_append, hround, ih]

/-- The line events an operation appends to `TR` are those of the line setup, for `CONSTRUCT`, and the waveform of what it appends
to `BL`. -/
theorem filter_appendedEvents (i : Instr) (b : BitVec 3) :
    (appendedEvents i b).filter isLineEvent = setupEvents (isConstruct i) ++ logWave (appendedTxns i b) := by
  cases i with
  | construct c d => exact (List.filter_append ..).trans (by rw [filter_log]; rfl)
  | brightnessSet v =>
    have hdiag : (if 7 < v.toNat then [Event.diag (.brightnessRange v)] else []).filter isLineEvent = [] := by
      split <;> rfl
    rw [appendedEvents, List.filter_append, hdiag, filter_log]; rfl
  | write pos segs =>
    cases hpos : positionValid pos
    · simp [appendedEvents, appendedTxns, hpos, isLineEvent, setupEvents, isConstruct, logWave]
    · simp [appendedEvents, appendedTxns, hpos, filter_log, setupEvents, isConstruct]
  | showText colon str => rw [appendedEvents, List.filter_append, filter_diags, filter_log]; rfl
  | setRaw pos data => exact filter_log _
  | setChar pos ch dot => rw [appendedEvents, List.filter_append, filter_diags, filter_log]; rfl
  | scroll delayMs str => exact filter_rounds delayMs b _
  | _ => rfl

/-- An operation of a port keeps the agreement: `CONSTRUCT` starts both logs, the others extend them alike. -/
theorem Did.wireAgrees {i : Instr} {s t : State} (did : Did i s t) (hs : Inv s) (hagrees : wireAgrees s) :
    wireAgrees t := by
  rw [wireAgrees_iff] at hagrees ⊢
  rw [did.tr, did.bl, List.filter_append, hagrees, filter_appendedEvents, logWave_append]
  cases hcon : isConstruct i with
  | true =>
    obtain ⟨hunc, hset, _⟩ := did.con hcon
    obtain ⟨_, _, _, hbl⟩ := hs.before hunc
    rw [hunc, hset, hbl]
    rfl
  | false =>
    have hkept := (did.other hcon).1
    simp [hkept, setupEvents]

/-- Settles O49: a step issues nothing, or runs one operation of a port, which keeps the agreement. -/
theorem stepKeepsTraceAndByteLogInAgreement : Obligations.StepKeepsTraceAndByteLogInAgreement := by
  intro s t hs hagrees h
  rcases step_did hs.host h with ⟨_, rfl⟩ | ⟨_, _, _, hhead, _, _, did⟩
  · exact hagrees
  · exact did.wireAgrees (inv_issued hs hhead) hagrees

/-! The waveform determines the byte log (R68): a byte is read off its waveform, and its third line write tells a byte from `STOP`. -/

/-- Data slot `k` begins with bit `k` on `DIO` (R112). -/
theorem byteWave_bit (b : Byte) {k : Nat} (hk : k < 8) : (byteWave b)[6 * k]? = some (.set .dio (b.getLsbD k)) := by
  interval_cases k <;> rfl

theorem byteWave_injective {b c : Byte} (h : byteWave b = byteWave c) : b = c := by
  refine BitVec.eq_of_getLsbD_eq fun k hk => ?_
  have hbit : some (Event.set .dio (b.getLsbD k)) = some (.set .dio (c.getLsbD k)) := by
    rw [← byteWave_bit b hk, ← byteWave_bit c hk, h]
  simpa using hbit

/-- The third line write is `CLK` in a byte and `DIO` in a `STOP` (R111, R112). -/
theorem byteWave_ne_stopWave (b : Byte) (u v : List Event) : byteWave b ++ u ≠ stopWave ++ v := by
  intro h
  have hthird : some (Event.set .clk false) = some (.set .dio true) := congrArg (·[4]?) h
  simp at hthird

/-- The bytes of a transaction, and what follows it, are read off the events after its `START`. -/
theorem bytes_eq_of_wave_eq {bs cs : List Byte} {u v : List Event}
    (h : bs.flatMap byteWave ++ (stopWave ++ u) = cs.flatMap byteWave ++ (stopWave ++ v)) : bs = cs ∧ u = v := by
  induction bs generalizing cs with
  | nil =>
    cases cs with
    | nil => exact ⟨rfl, List.append_cancel_left h⟩
    | cons c cs =>
      rw [List.flatMap_cons, List.append_assoc] at h
      exact absurd h.symm (byteWave_ne_stopWave c _ u)
  | cons b bs ih =>
    cases cs with
    | nil =>
      rw [List.flatMap_cons, List.append_assoc] at h
      exact absurd h (byteWave_ne_stopWave b _ v)
    | cons c cs =>
      rw [List.flatMap_cons, List.flatMap_cons, List.append_assoc, List.append_assoc] at h
      obtain ⟨hbyte, hrest⟩ := List.append_inj h rfl
      obtain ⟨hbytes, hafter⟩ := ih hrest
      exact ⟨by rw [byteWave_injective hbyte, hbytes], hafter⟩

theorem logWave_cons (t : List Byte) (bl : List (List Byte)) :
    logWave (t :: bl) = startWave ++ (t.flatMap byteWave ++ (stopWave ++ logWave bl)) := by
  simp [logWave, txnWave]

/-- Settles O18: by induction on the log, the first transaction and the waveform of the others being read off the waveform. -/
theorem waveformDeterminesTheByteLog : Obligations.WaveformDeterminesTheByteLog := by
  intro a
  induction a with
  | nil =>
    intro b h
    cases b with
    | nil => rfl
    | cons t b => cases h
  | cons t a ih =>
    intro b h
    cases b with
    | nil => cases h
    | cons t' b =>
      rw [logWave_cons, logWave_cons] at h
      obtain ⟨htxn, hrest⟩ := bytes_eq_of_wave_eq (List.append_cancel_left h)
      rw [htxn, ih b hrest]

end Sys2Proof.Machine
end

section
/-! PROOFS, family 20_memory: what the reference receiver holds after `WRITE`, `SHOW` and `SET_RAW` (R69). -/

namespace Sys2Proof.Machine

open Sys2Proof.Safety

/-- The receiver reads what an operation of a port appends to `BL` from where it stood before. -/
theorem receiveAll_after {i : Instr} {s t : State} {d : Device} (hi : hostInstr i) (h : exec i s = .next t)
    (hd : Device.unknown.receiveAll s.bl = some d) :
    Device.unknown.receiveAll t.bl = d.receiveAll (appendedTxns i s.bright) := by
  rw [(exec_did hi h).bl, Device.receiveAll_append, hd]
  rfl

/-- The three transactions of an auto-increment write (R153): the data bytes from `pos` on, then the control setting. -/
theorem Device.receiveAll_autoTxns (d : Device) {pos : Byte} (hpos : pos.toNat < 6) (segs : List Byte) (b : BitVec 3) :
    d.receiveAll (autoTxns pos segs b) =
      (({ d with mode := some .auto } : Device).autoWrite pos.toNat segs).map fun d => { d with ctrl := some b } := by
  have haddr := Device.receive_addr { d with mode := some .auto } pos segs hpos .auto rfl
  simp only [autoTxns, Device.receiveAll, Device.receive_auto, Option.bind_some, haddr, Device.receive_disp]
  exact Option.map_eq_bind.symm

/-- An auto-increment write that stays within the six positions: its bytes from `pos` on, and what was held elsewhere. -/
theorem Device.receiveAll_autoTxns_of_fits (d : Device) {pos : Byte} {segs : List Byte} (b : BitVec 3)
    (hpos : pos.toNat < 6) (hfits : pos.toNat + segs.length ≤ 6) :
    ∃ d', d.receiveAll (autoTxns pos segs b) = some d' ∧ d'.mode = some .auto ∧ d'.ctrl = some b ∧
      ∀ k : Fin 6, d'.mem[k] =
        if pos.toNat ≤ k.val ∧ k.val < pos.toNat + segs.length then segs[k.val - pos.toNat]? else d.mem[k] := by
  obtain ⟨written, hwrite, hmem⟩ :=
    Device.autoWrite_mem { d with mode := some .auto } pos.toNat segs (.inr hfits)
  obtain ⟨hmode, _⟩ := Device.autoWrite_mode hwrite
  exact ⟨{ written with ctrl := some b }, by rw [d.receiveAll_autoTxns hpos, hwrite]; rfl, hmode, rfl, hmem⟩

/-- An auto-increment write with a byte past position 5 stops the receiver (93_implementation_defined.md U4). -/
theorem Device.receiveAll_autoTxns_stops (d : Device) {pos : Byte} {segs : List Byte} (b : BitVec 3)
    (hpos : pos.toNat < 6) (hpast : 6 < pos.toNat + segs.length) : d.receiveAll (autoTxns pos segs b) = none := by
  rw [d.receiveAll_autoTxns hpos, Device.autoWrite_stops _ _ _ hpast (by omega)]
  rfl

/-- The three transactions of a fixed-address write at a position 0..5 (R155). -/
theorem Device.receiveAll_fixedTxns (d : Device) {pos : Byte} (hpos : pos.toNat < 6) (data : Byte) (b : BitVec 3) :
    d.receiveAll (fixedTxns pos data b) =
      some { mode := some .fixed, mem := d.mem.set pos.toNat (some data) hpos, ctrl := some b } := by
  have haddr := Device.receive_addr { d with mode := some .fixed } pos [data] hpos .fixed rfl
  simp only [fixedTxns, Device.receiveAll, Device.receive_fixed, Option.bind_some, haddr, Device.fixedWrite, dif_pos hpos,
    Device.receive_disp, Device.memWrite]

/-- The positions 0..4 are those `WRITE` accepts (R153). -/
theorem positionValid_of_le {pos : Byte} (hpos : pos.toNat ≤ 4) : positionValid pos = true := by
  have hall : ∀ pos : Byte, pos.toNat ≤ 4 → positionValid pos = true := by decide
  exact hall pos hpos

/-- Settles O52: an accepted `WRITE` is an auto-increment write, which stays within the six positions or stops the receiver. -/
theorem receiverAfterWrite : Obligations.ReceiverAfterWrite := by
  intro pos segs s t d hpos h hd
  have hsent : appendedTxns (.write pos segs) s.bright = autoTxns pos segs s.bright :=
    if_pos (positionValid_of_le hpos)
  rw [receiveAll_after (.inl rfl) h hd, hsent]
  exact ⟨fun hpast => d.receiveAll_autoTxns_stops s.bright (by omega) hpast,
    fun hfits => d.receiveAll_autoTxns_of_fits s.bright (by omega) hfits⟩

/-- The colon step changes the second value alone (R154). -/
theorem withColon_getElem? (colon : Bool) (vs : List Byte) (k : Nat) :
    (withColon colon vs)[k]? = vs[k]?.map fun v => if k = 1 then withDot colon v else v := by
  match vs, k with
  | [], _ => rfl
  | [_], 0 => rfl
  | [_], _ + 1 => rfl
  | _ :: _ :: _, 0 => rfl
  | _ :: _ :: _, 1 => rfl
  | _ :: _ :: rest, n + 2 => simp [withColon]

/-- The values `SHOW` writes, one for each of the first four characters (R134, R154). -/
theorem shown_getElem? (colon : Bool) {str : List Byte} {k : Nat} (hk : k < min str.length 4) :
    (withColon colon (encodeString str).1)[k]? =
      str[k]?.map fun c => (encodeChar c).1 ||| (if colon = true ∧ k = 1 ∧ 1 < str.length then 0x80 else 0) := by
  obtain ⟨hlen, hfour⟩ : k < str.length ∧ k < 4 := Nat.lt_min.1 hk
  rw [withColon_getElem?, encodeString_eq, List.getElem?_map, List.getElem?_take_of_lt hfour, Option.map_map]
  congr 1
  funext c
  by_cases hsecond : k = 1
  · subst hsecond
    cases colon <;> simp [withDot, hlen, Config.dotBit]
  · simp [hsecond]

/-- Settles O53: an accepted `SHOW` is an auto-increment write of at most four values at position 0. -/
theorem receiverAfterShow : Obligations.ReceiverAfterShow := by
  intro colon str s t d h hd
  have hlen : (withColon colon (encodeString str).1).length = min str.length 4 := by
    rw [withColon_length, encodeString_length]
  have hzero : (0 : Byte).toNat = 0 := rfl
  obtain ⟨d', hread, hmode, hctrl, hmem⟩ :=
    d.receiveAll_autoTxns_of_fits (pos := 0) (segs := withColon colon (encodeString str).1) s.bright (by decide)
      (by rw [hzero, Nat.zero_add]; exact shown_length colon str)
  refine ⟨d', (receiveAll_after (.inl rfl) h hd).trans hread, hmode, hctrl, fun k => ?_⟩
  rw [hmem k, hzero, Nat.zero_add, Nat.sub_zero, hlen]
  by_cases hk : k.val < min str.length 4
  · rw [if_pos ⟨Nat.zero_le _, hk⟩, if_pos hk, shown_getElem? colon hk]
  · rw [if_neg (fun hboth => hk hboth.2), if_neg hk]

/-- Settles O54: an accepted `SET_RAW` is a fixed-address write. -/
theorem receiverAfterSetRaw : Obligations.ReceiverAfterSetRaw := by
  intro pos data s t d hpos h hd
  exact ⟨_, (receiveAll_after (.inl rfl) h hd).trans (d.receiveAll_fixedTxns hpos data s.bright), rfl, rfl, rfl⟩

end Sys2Proof.Machine
end

section
/-! PROOFS, family 30_encoding: decode and encode are inverse, which packets have an opcode of their port, and words of the table (R81 to
R83, R90 to R93). -/

namespace Sys2Proof

/-! Decoding what was encoded (R82). -/

/-- Settles O1: each row of the table gives back the instruction of its own packet. -/
theorem decodeOfEncodeIsTheInstruction : Obligations.DecodeOfEncodeIsTheInstruction := by
  intro i
  cases i with
  | construct clkId dioId => exact Laws.RoundTrip.construct clkId dioId
  | brightnessGet => exact Laws.RoundTrip.brightnessGet
  | brightnessSet v => exact Laws.RoundTrip.brightnessSet v
  | write pos segments => exact Laws.RoundTrip.write pos segments
  | showText colon str => exact Laws.RoundTrip.showText colon str
  | setRaw pos data => exact Laws.RoundTrip.setRaw pos data
  | setChar pos ch dot => exact Laws.RoundTrip.setChar pos ch dot
  | scroll delayMs str => exact Laws.RoundTrip.scroll delayMs str
  | encodeDigit d => exact Laws.RoundTrip.encodeDigit d
  | encodeChar c => exact Laws.RoundTrip.encodeChar c
  | encodeString str => exact Laws.RoundTrip.encodeString str
  | hex value => exact Laws.RoundTrip.hex value
  | number value => exact Laws.RoundTrip.number value
  | start => exact Laws.RoundTrip.start
  | stop => exact Laws.RoundTrip.stop
  | writeByte b => exact Laws.RoundTrip.writeByte b
  | commandSequence cmd => exact Laws.RoundTrip.commandSequence cmd
  | busDataAutoinc => exact Laws.RoundTrip.busDataAutoinc
  | busDataFixed => exact Laws.RoundTrip.busDataFixed
  | busDisplayCtrl b => exact Laws.RoundTrip.busDisplayCtrl b
  | busAddress p => exact Laws.RoundTrip.busAddress p

/-! The operands a decoder reads: when they are read, and when they are rejected. -/

theorem except_map_eq_ok_iff {α β : Type} {x : Except Check α} {f : α → β} {b : β} :
    x.map f = .ok b ↔ ∃ a, x = .ok a ∧ f a = b := by
  cases x <;> simp [Except.map]

theorem except_map_eq_error_iff {α β : Type} {x : Except Check α} {f : α → β} {c : Check} :
    x.map f = .error c ↔ x = .error c := by
  cases x <;> simp [Except.map]

theorem except_bind_eq_ok_iff {α β : Type} {x : Except Check α} {f : α → Except Check β} {b : β} :
    x.bind f = .ok b ↔ ∃ a, x = .ok a ∧ f a = .ok b := by
  cases x <;> simp [Except.bind]

theorem except_bind_eq_error_iff {α β : Type} {x : Except Check α} {f : α → Except Check β} {c : Check} :
    x.bind f = .error c ↔ x = .error c ∨ ∃ a, x = .ok a ∧ f a = .error c := by
  cases x <;> simp [Except.bind]

theorem decodeSeq_eq_ok_iff {n : Nat} {rest str : List Byte} :
    decodeSeq n rest = .ok str ↔ rest.length = n ∧ rest = str := by
  unfold decodeSeq; split <;> simp [*]

theorem decodeSeq_ne_opcode (n : Nat) (rest : List Byte) : decodeSeq n rest ≠ .error .opcode := by
  unfold decodeSeq; split <;> simp

theorem decodeFlag_ne_opcode (b : Byte) : decodeFlag b ≠ .error .opcode := by
  unfold decodeFlag; split_ifs <;> simp

/-! Encoding what was decoded (R82). -/

/-- A byte the decoder has matched with `n` is the byte `n`. -/
theorem ofNat_of_toNat_eq {op : Byte} {n : Nat} (h : op.toNat = n) : BitVec.ofNat 8 n = op := by
  rw [← h, BitVec.ofNat_toNat, BitVec.setWidth_eq]

/-- The length field of a string is written as it was read (R81). -/
theorem encodeStr_of_length {lo hi : Byte} {str : List Byte} (h : str.length = (u16 lo hi).toNat) :
    encodeStr str = lo :: hi :: str := by
  rw [encodeStr, h, BitVec.ofNat_toNat, BitVec.setWidth_eq, loByte_u16, hiByte_u16]

/-- A byte whose upper five bits are `top` is `top` and its lower three bits (R92, R93). -/
theorem append_extractLsb'_of_mask {op : Byte} {top : BitVec 5} (h : op &&& 0xF8 = top ++ 0#3) :
    top ++ op.extractLsb' 0 3 = op := by
  have hmask : ∀ i < 8, (0xF8 : Byte).getLsbD i = decide (3 ≤ i) := by decide
  apply BitVec.eq_of_getLsbD_eq
  intro i hi
  have hbit := congrArg (BitVec.getLsbD · i) h
  simp only [BitVec.getLsbD_and, hmask i hi, BitVec.getLsbD_append] at hbit ⊢
  by_cases hlow : i < 3
  · simp [hlow]
  · simpa [hlow, Nat.le_of_not_lt hlow] using hbit.symm

theorem encode_of_decodeCtl {op : Byte} {rest : List Byte} {i : Instr} (h : decodeCtl op rest = .ok i) :
    encode i = { source := .ctl, bytes := op :: rest } := by
  unfold decodeCtl at h
  split at h
  case h_1 hop | h_2 hop | h_3 hop | h_6 hop => -- the rows of a fixed length without a truth value
    obtain rfl := ofNat_of_toNat_eq hop
    split at h <;> cases h
    rfl
  case h_4 hop => -- WRITE
    obtain rfl := ofNat_of_toNat_eq hop
    split at h
    · next pos n segments =>
      obtain ⟨_, hseq, rfl⟩ := except_map_eq_ok_iff.1 h
      obtain ⟨hlen, rfl⟩ := decodeSeq_eq_ok_iff.1 hseq
      simp [encode, Instr.source, Instr.opcode, Instr.operandBytes, hlen]
    · cases h
  case h_5 hop => -- SHOW
    obtain rfl := ofNat_of_toNat_eq hop
    split at h
    · next colon lo hi str =>
      obtain ⟨_, hseq, hflag⟩ := except_bind_eq_ok_iff.1 h
      obtain ⟨hlen, rfl⟩ := decodeSeq_eq_ok_iff.1 hseq
      obtain ⟨f, hf, rfl⟩ := except_map_eq_ok_iff.1 hflag
      simp [encode, Instr.source, Instr.opcode, Instr.operandBytes, encodeFlag_of_decodeFlag hf, encodeStr_of_length hlen]
    · cases h
  case h_7 hop => -- SET_CHAR
    obtain rfl := ofNat_of_toNat_eq hop
    split at h
    · next pos ch dot =>
      obtain ⟨f, hf, rfl⟩ := except_map_eq_ok_iff.1 h
      simp [encode, Instr.source, Instr.opcode, Instr.operandBytes, encodeFlag_of_decodeFlag hf]
    · cases h
  case h_8 hop => -- SCROLL
    obtain rfl := ofNat_of_toNat_eq hop
    split at h
    · next dlo dhi lo hi str =>
      obtain ⟨_, hseq, rfl⟩ := except_map_eq_ok_iff.1 h
      obtain ⟨hlen, rfl⟩ := decodeSeq_eq_ok_iff.1 hseq
      simp [encode, Instr.source, Instr.opcode, Instr.operandBytes, encodeStr_of_length hlen]
    · cases h
  case h_9 => cases h

theorem encode_of_decodeEnc {op : Byte} {rest : List Byte} {i : Instr} (h : decodeEnc op rest = .ok i) :
    encode i = { source := .enc, bytes := op :: rest } := by
  unfold decodeEnc at h
  split at h
  case h_1 hop | h_2 hop => -- ENCODE_DIGIT, ENCODE_CHAR
    obtain rfl := ofNat_of_toNat_eq hop
    split at h <;> cases h
    rfl
  case h_3 hop => -- ENCODE_STRING
    obtain rfl := ofNat_of_toNat_eq hop
    split at h
    · next lo hi str =>
      obtain ⟨_, hseq, rfl⟩ := except_map_eq_ok_iff.1 h
      obtain ⟨hlen, rfl⟩ := decodeSeq_eq_ok_iff.1 hseq
      simp [encode, Instr.source, Instr.opcode, Instr.operandBytes, encodeStr_of_length hlen]
    · cases h
  case h_4 hop | h_5 hop => -- HEX, NUMBER
    obtain rfl := ofNat_of_toNat_eq hop
    split at h <;> cases h
    simp [encode, Instr.source, Instr.opcode, Instr.operandBytes]
  case h_6 => cases h

theorem encode_of_decodeUop {op : Byte} {rest : List Byte} {i : Instr} (h : decodeUop op rest = .ok i) :
    encode i = { source := .uop, bytes := op :: rest } := by
  unfold decodeUop at h
  split at h
  case h_5 => cases h
  case h_1 hop | h_2 hop | h_3 hop | h_4 hop =>
    obtain rfl := ofNat_of_toNat_eq hop
    split at h <;> cases h
    rfl

theorem encode_of_decodeBus {op : Byte} {rest : List Byte} {i : Instr} (h : decodeBus op rest = .ok i) :
    encode i = { source := .bus, bytes := op :: rest } := by
  unfold decodeBus at h
  split at h
  · split_ifs at h with hauto hfixed hdisplay haddress
    · cases h; rw [hauto]; rfl
    · cases h; rw [hfixed]; rfl
    · cases h
      show Packet.mk .bus [0b10001#5 ++ op.extractLsb' 0 3] = _
      rw [append_extractLsb'_of_mask hdisplay]
    · cases h
      show Packet.mk .bus [0b11000#5 ++ op.extractLsb' 0 3] = _
      rw [append_extractLsb'_of_mask haddress]
  · cases h

/-- Settles O2: source by source, every byte of the packet is read into the instruction and written back. -/
theorem packetDecodesToItsOwnInstruction : Obligations.PacketDecodesToItsOwnInstruction := by
  rintro ⟨source, bytes⟩ i h
  cases bytes with
  | nil => cases h
  | cons op rest =>
    cases source with
    | ctl => exact encode_of_decodeCtl h
    | enc => exact encode_of_decodeEnc h
    | uop => exact encode_of_decodeUop h
    | bus => exact encode_of_decodeBus h

/-! The opcodes of the two ports (`WF_OPCODE`, R83). -/

theorem decodeCtl_opcode_iff (op : Byte) (rest : List Byte) :
    decodeCtl op rest = .error .opcode ↔ 0x07 < op.toNat := by
  unfold decodeCtl
  split
  case h_9 hne0 hne1 hne2 hne3 hne4 hne5 hne6 hne7 => exact iff_of_true rfl (by grind)
  all_goals -- a row of the port rejects by another name
    next hop =>
    rw [hop]
    split <;> simp [except_map_eq_error_iff, except_bind_eq_error_iff, decodeSeq_ne_opcode, decodeFlag_ne_opcode]

theorem decodeEnc_opcode_iff (op : Byte) (rest : List Byte) :
    decodeEnc op rest = .error .opcode ↔ op.toNat < 0x10 ∨ 0x14 < op.toNat := by
  unfold decodeEnc
  split
  case h_6 hne10 hne11 hne12 hne13 hne14 => exact iff_of_true rfl (by grind)
  all_goals -- a row of the port rejects by another name
    next hop =>
    rw [hop]
    split <;> simp [except_map_eq_error_iff, decodeSeq_ne_opcode]

/-- Settles O4: the decoder of a port names `WF_OPCODE` in its last row alone. -/
theorem onlyThePortsOpcodesAreAccepted : Obligations.OnlyThePortsOpcodesAreAccepted :=
  fun op rest => ⟨decodeCtl_opcode_iff op rest, decodeEnc_opcode_iff op rest⟩

/-- Settles O3: each word is a fixed packet, which the decoder reads by evaluation. -/
theorem tableWordsDecode : Obligations.TableWordsDecode := by
  unfold Obligations.TableWordsDecode
  decide

end Sys2Proof
end

section
/-! PROOFS, family 30_encoding: what the ports refuse and accept (R83 to R85, R60), in `exec` and in a step. -/

namespace Sys2Proof.Machine

open Sys2Proof.Safety

/-! The operand checks (R83). -/

theorem strCheck_of_zero_mem {str : List Byte} (hzero : 0 ∈ str) (hlen : str.length ≤ 65535) :
    strCheck str = some .str := by
  have hfits : ¬ Config.maxStrLen < str.length := Nat.not_lt.2 hlen
  rw [strCheck, if_neg hfits, if_pos hzero]

/-- No check of R83 is about an internal instruction. -/
theorem illFormed_of_internal {i : Instr} (hi : ¬ hostInstr i) : i.illFormed = none := by
  cases i with
  | start | stop | writeByte | commandSequence | busDataAutoinc | busDataFixed | busDisplayCtrl | busAddress => rfl
  | construct | brightnessGet | brightnessSet | write | showText | setRaw | setChar | scroll => exact absurd (.inl rfl) hi
  | encodeDigit | encodeChar | encodeString | hex | number => exact absurd (.inr rfl) hi

/-! The two ports (R60, R84, R85). -/

theorem exec_eq_runEnc {i : Instr} (hi : i.source = .enc) : ∃ body, ∀ s, exec i s = runEnc i body s := by
  cases i with
  | encodeDigit d => exact ⟨_, (exec_encodeDigit · d)⟩
  | encodeChar c => exact ⟨_, (exec_encodeChar · c)⟩
  | encodeString str => exact ⟨_, (exec_encodeString · str)⟩
  | hex value => exact ⟨_, (exec_hex · value)⟩
  | number value => exact ⟨_, (exec_number · value)⟩
  | _ => cases hi

theorem ctlRefusal_of_illFormed {op : CtlOp} {i : Instr} {s : State} {c : Check} (hc : i.illFormed = some c) :
    ctlRefusal op i s = some (.illFormed c) := by
  rw [ctlRefusal, hc]

theorem ctlRefusal_of_wellFormed {op : CtlOp} {i : Instr} {s : State} (hwf : i.illFormed = none) :
    ctlRefusal op i s = ctlStateCheck op s := by
  rw [ctlRefusal, hwf]

/-- An operation of the `CTL` port is refused by the name its checks give. -/
theorem exec_of_ctlRefusal {i : Instr} {op : CtlOp} {s : State} {r : Refusal} (hop : ctlOp i = some op)
    (hr : ctlRefusal op i s = some r) : exec i s = .refused r := by
  rw [exec_eq_runCtl hop, runCtl, hr]

/-- R85: an instruction that fails a check is refused by its name, in every state. -/
theorem exec_of_illFormed {i : Instr} {c : Check} (hc : i.illFormed = some c) (s : State) :
    exec i s = .refused (.illFormed c) := by
  by_cases hi : hostInstr i
  · rcases hi with hctl | henc
    · obtain ⟨op, hop⟩ := (source_eq_ctl_iff i).1 hctl
      exact exec_of_ctlRefusal hop (ctlRefusal_of_illFormed hc)
    · obtain ⟨body, hbody⟩ := exec_eq_runEnc henc
      rw [hbody, runEnc, hc]
  · rw [illFormed_of_internal hi] at hc
    cases hc

/-- Settles O5: the operand checks by their conditions, and `exec_of_illFormed`. -/
theorem failedOperandCheckRefusesByName : Obligations.FailedOperandCheckRefusesByName := by
  refine ⟨fun id => if_pos rfl, fun pos segs hlen => if_pos hlen, fun str hzero hlen => ?_, fun value hbig => if_pos hbig,
    fun i s c hc => exec_of_illFormed hc s⟩
  have hstr := strCheck_of_zero_mem hzero hlen
  exact ⟨fun _ => hstr, fun _ => hstr, hstr⟩

/-! The state checks (R84). -/

theorem ctlStateCheck_of_busy {s : State} (op : CtlOp) (hbusy : s.busy = true) : ctlStateCheck op s = some .busy :=
  if_pos hbusy

theorem ctlStateCheck_construct_again {s : State} (hbusy : s.busy = false) (hcon : s.constructed = true) :
    ctlStateCheck .construct s = some .alreadyConstructed := by
  simp [ctlStateCheck, hbusy, hcon]

theorem ctlStateCheck_before_construct {op : CtlOp} {s : State} (hbusy : s.busy = false) (hop : op ≠ .construct)
    (hcon : s.constructed = false) : ctlStateCheck op s = some .notConstructed := by
  cases op with
  | construct => exact absurd rfl hop
  | _ => simp [ctlStateCheck, hbusy, hcon]

/-- Settles O8: on `CTL` the state check alone decides what happens to a well-formed operation; `ENC` has none. -/
theorem portStateChecks : Obligations.PortStateChecks := by
  refine ⟨fun i op s hop hwf => ?_, fun i s henc hwf => ?_⟩
  · have hrefuse : ∀ {r}, ctlStateCheck op s = some r → exec i s = .refused r := fun hr =>
      exec_of_ctlRefusal hop ((ctlRefusal_of_wellFormed hwf).trans hr)
    refine ⟨fun hbusy => ?_, fun hbusy hconstruct hcon => ?_, fun hbusy hother hcon => ?_, fun hbusy hcon => ?_⟩
    · exact hrefuse (ctlStateCheck_of_busy op hbusy)
    · subst hconstruct
      exact hrefuse (ctlStateCheck_construct_again hbusy hcon)
    · exact hrefuse (ctlStateCheck_before_construct hbusy hother hcon)
    · exact ⟨_, (exec_eq_runCtl hop s).trans (runCtl_of_accepted _ hwf hbusy hcon)⟩
  · obtain ⟨body, hbody⟩ := exec_eq_runEnc henc
    exact ⟨_, (hbody s).trans (runEnc_of_wellFormed body s hwf)⟩

/-! A step without an instruction (R85, R34). -/

theorem runPacket_of_rejected {p : Packet} {c : Check} (hdecode : decode p = .error c) (s : State) :
    runPacket p s = .refused (.illFormed c) := by
  rw [runPacket, hdecode]

theorem step_of_empty {s : State} (hempty : s.inbox = []) : step s = .next s := by
  rw [step, issueNext, hempty]

/-- Settles O7: the head packet is issued and its decoder's rejection is the refusal; an empty inbox has nothing to issue. -/
theorem stepRefusesOrWaitsWithoutAnInstruction : Obligations.StepRefusesOrWaitsWithoutAnInstruction := by
  refine ⟨fun s p rest c hhead hdecode => ?_, fun s hempty => step_of_empty hempty⟩
  rw [step_of_head hhead, runPacket_of_rejected hdecode]

end Sys2Proof.Machine
end

section
/-! PROOFS, family 30_encoding: the bus command bytes and the transactions CORE sends (R90 to R93, R96, R97). -/

namespace Sys2Proof.Machine

open Sys2Proof.Safety

/-- Settles O14: each byte's meaning is the transaction of that byte alone, as `COMMAND_SEQUENCE` sends it. -/
theorem busCommandBytesAreSentAlone : Obligations.BusCommandBytesAreSentAlone := by
  intro s
  have hsent : ∀ c, exec (.commandSequence c) s = .next (s.dataTransaction [c]) := fun c => by
    rw [exec_commandSequence, State.uopCommandSequence_eq_dataTransaction]
  refine ⟨?_, ?_, fun b => ?_, fun p => ?_, fun c => ?_⟩
  · rw [exec_busDataAutoinc, hsent]
  · rw [exec_busDataFixed, hsent]
  · rw [exec_busDisplayCtrl, hsent, dispByte]
  · rw [exec_busAddress, hsent]
  · rw [hsent, State.dataTransaction_eq]

/-! What can be sent (R96, R97). -/

theorem sendable_display (b : BitVec 3) : sendable [dispByte b] := .inr (.inr (.inl ⟨b, rfl⟩))

/-- The address byte of any position keeps the two upper bits of its base (R93). -/
theorem sendable_address (pos : Byte) {data : List Byte} (hlen : data.length ≤ 6) : sendable ((0xC0 ||| pos) :: data) := by
  have hbase : 0xC0 ≤ (0xC0 ||| pos).toNat := by
    rw [BitVec.toNat_or]
    exact Nat.left_le_or
  exact .inr (.inr (.inr ⟨_, data, rfl, hbase, hlen⟩))

theorem brightTxns_sendable (b : BitVec 3) : ∀ t ∈ brightTxns b, sendable t :=
  List.forall_mem_cons.2 ⟨.inl rfl, List.forall_mem_singleton.2 (sendable_display b)⟩

theorem autoTxns_sendable (pos : Byte) {segs : List Byte} (hlen : segs.length ≤ 6) (b : BitVec 3) :
    ∀ t ∈ autoTxns pos segs b, sendable t :=
  List.forall_mem_cons.2 ⟨.inl rfl,
    List.forall_mem_cons.2 ⟨sendable_address pos hlen, List.forall_mem_singleton.2 (sendable_display b)⟩⟩

theorem fixedTxns_sendable (pos data : Byte) (b : BitVec 3) : ∀ t ∈ fixedTxns pos data b, sendable t :=
  List.forall_mem_cons.2 ⟨.inr (.inl rfl),
    List.forall_mem_cons.2 ⟨sendable_address pos (by simp), List.forall_mem_singleton.2 (sendable_display b)⟩⟩

/-- A well-formed operation of a port appends sendable transactions only. -/
theorem appendedTxns_sendable {i : Instr} (hwf : i.illFormed = none) (b : BitVec 3) :
    ∀ t ∈ appendedTxns i b, sendable t := by
  cases i with
  | construct c d => exact brightTxns_sendable Config.defaultBrightness
  | brightnessSet v => exact brightTxns_sendable (maskBright v)
  | write pos segs =>
    cases hpos : positionValid pos
    · simp [appendedTxns, hpos]
    · rw [appendedTxns, if_pos hpos]
      exact autoTxns_sendable pos (write_length hwf) b
  | showText colon str => exact autoTxns_sendable 0 (shown_length colon str) b
  | setRaw pos data => exact fixedTxns_sendable pos data b
  | setChar pos ch dot => exact fixedTxns_sendable pos _ b
  | scroll delayMs str =>
    intro t ht
    obtain ⟨w, _, hround⟩ := List.mem_flatMap.1 ht
    have hlen : (encodeString w.toList).1.length ≤ 6 := by rw [encodeString_length]; omega
    exact autoTxns_sendable 0 hlen b t hround
  | brightnessGet | encodeDigit | encodeChar | encodeString | hex | number | start | stop | writeByte | commandSequence
  | busDataAutoinc | busDataFixed | busDisplayCtrl | busAddress => exact fun t ht => absurd ht List.not_mem_nil

/-- Settles O50: a step issues nothing, or runs one well-formed operation of a port, which appends sendable transactions. -/
theorem onlySendableTransactionsAreSent : Obligations.OnlySendableTransactionsAreSent := by
  intro s t hs hsent h
  rcases step_did hs h with ⟨_, rfl⟩ | ⟨_, _, _, _, _, _, did⟩
  · exact hsent
  · rw [did.bl]
    exact List.forall_mem_append.2 ⟨hsent, appendedTxns_sendable did.wf _⟩

end Sys2Proof.Machine
end

section
/-! PROOFS, family 40_bus_protocol: what the micro-operations put on the lines, and what the waveforms say on them (R110 to R119). -/

namespace Sys2Proof.Machine

open Sys2Proof.Safety

/-! The micro-operations (R110 to R113). -/

/-- Settles O10: the events of `START` are `D0 . C0 .` -/
theorem startPullsDataThenClockLow : Obligations.StartPullsDataThenClockLow := by
  intro s
  rw [exec_start, State.uopStart_eq]
  rfl

/-- Settles O11: the events of `STOP` are `D0 . C1 . D1 .` -/
theorem stopPullsDataLowRaisesClockRaisesData : Obligations.StopPullsDataLowRaisesClockRaisesData := by
  intro s
  rw [exec_stop, State.uopStop_eq]
  rfl

/-- Settles O12: the events of `WRITE_BYTE` are eight data slots and the ACK slot. -/
theorem writeByteSendsBitsLowFirstThenAckSlot : Obligations.WriteByteSendsBitsLowFirstThenAckSlot := by
  intro b s
  rw [exec_writeByte, State.uopWriteByte_eq]
  rfl

/-- Settles O13: the three micro-operations append the three parts of the waveform of `[cmd]`; only the byte log is left to gain. -/
theorem commandSequenceIsStartByteStop : Obligations.CommandSequenceIsStartByteStop := by
  intro cmd s
  have hrun : ((s.uopStart).uopWriteByte cmd).uopStop =
      { s with clk := true, dio := true, txn := .idle, tr := s.tr ++ txnWave [cmd] } := by
    simp [State.uopStart_eq, State.uopWriteByte_eq, State.uopStop_eq, txnWave]
  refine ⟨_, _, _, exec_start s, exec_writeByte _ cmd, exec_stop _, ?_, hrun⟩
  rw [exec_commandSequence, State.uopCommandSequence_eq, hrun]

/-! One delay for each line write (R114). -/

/-- A bus command byte run alone is the transaction of that one byte (notes/assumptions/2.md). -/
theorem exec_bus {i : Instr} (hi : i.source = .bus) (s : State) : ∃ c, exec i s = .next (s.dataTransaction [c]) := by
  cases i with
  | busDataAutoinc => exact ⟨_, exec_busDataAutoinc s⟩
  | busDataFixed => exact ⟨_, exec_busDataFixed s⟩
  | busDisplayCtrl b => exact ⟨_, exec_busDisplayCtrl s b⟩
  | busAddress p => exact ⟨_, exec_busAddress s p⟩
  | _ => cases hi

/-- The events a micro-operation appends to `TR`; tied to the model by `exec_uop_tr`. -/
def uopWave : Instr → List Event
  | .start => startWave
  | .stop => stopWave
  | .writeByte b => byteWave b
  | .commandSequence cmd => txnWave [cmd]
  | _ => []

theorem exec_uop_tr {i : Instr} {s t : State} (hi : i.source = .uop) (h : exec i s = .next t) :
    t.tr = s.tr ++ uopWave i := by
  cases i with
  | start => rw [exec_start, State.uopStart_eq] at h; cases h; rfl
  | stop => rw [exec_stop, State.uopStop_eq] at h; cases h; rfl
  | writeByte b => rw [exec_writeByte, State.uopWriteByte_eq] at h; cases h; rfl
  | commandSequence cmd => rw [exec_commandSequence, State.uopCommandSequence_eq] at h; cases h; rfl
  | _ => cases hi

theorem microStepsOnly_bytes (bytes : List Byte) : microStepsOnly (bytes.flatMap byteWave) = true := by
  induction bytes with
  | nil => rfl
  | cons b rest ih => exact microStepsOnly_append (byteWave b) _ rfl ih

theorem microStepsOnly_txnWave (bytes : List Byte) : microStepsOnly (txnWave bytes) = true :=
  microStepsOnly_append _ _ (microStepsOnly_append _ _ rfl (microStepsOnly_bytes bytes)) rfl

theorem microStepsOnly_uopWave (i : Instr) : microStepsOnly (uopWave i) = true := by
  cases i with
  | commandSequence cmd => exact microStepsOnly_txnWave [cmd]
  | _ => rfl

/-- Settles O15: a micro-operation appends its wave, a bus command byte the wave of a transaction of one byte. -/
theorem everyBusLineWriteHasOneDelay : Obligations.EveryBusLineWriteHasOneDelay := by
  intro i s t hi h
  rcases hi with huop | hbus
  · refine ⟨uopWave i, exec_uop_tr huop h, microStepsOnly_uopWave i, ?_, ?_, ?_, fun hbus => ?_⟩
    · rintro rfl; rfl
    · rintro rfl; rfl
    · rintro b rfl; rfl
    · rw [huop] at hbus; cases hbus
  · obtain ⟨c, hsent⟩ := exec_bus hbus s
    rw [hsent, State.dataTransaction_eq] at h
    cases h
    refine ⟨txnWave [c], rfl, microStepsOnly_txnWave [c], ?_, ?_, ?_, fun _ => rfl⟩
    · rintro rfl; cases hbus
    · rintro rfl; cases hbus
    · rintro b rfl; cases hbus

/-! `DIO` under a high `CLK` (R117, R118): a byte sent from a low `CLK` leaves `CLK` low and changes `DIO` under a low `CLK` only. -/

theorem levelsAfter_startWave (c d : Bool) : levelsAfter c d startWave = (false, false) := rfl

theorem levelsAfter_byteWave (c d : Bool) (b : Byte) : levelsAfter c d (byteWave b) = (false, b.getLsbD 7) := rfl

theorem levelsAfter_stopWave (c d : Bool) : levelsAfter c d stopWave = (true, true) := rfl

/-- Both lines end a transaction at 1 (R111). -/
theorem levelsAfter_txnWave (c d : Bool) (bytes : List Byte) : levelsAfter c d (txnWave bytes) = (true, true) := by
  rw [txnWave, levelsAfter_append, levelsAfter_stopWave]

theorem clk_low_after_bytes (d : Bool) (bytes : List Byte) : (levelsAfter false d (bytes.flatMap byteWave)).1 = false := by
  induction bytes generalizing d with
  | nil => rfl
  | cons b rest ih => rw [List.flatMap_cons, levelsAfter_append, levelsAfter_byteWave, ih]

/-- `START` pulls `DIO` low under the `CLK` it finds (R117). -/
theorem dioChanges_startWave (c d : Bool) : dioChangesUnderHighClk c d startWave = if c && d then 1 else 0 := by
  cases c <;> cases d <;> rfl

theorem dioChanges_byteWave (d : Bool) (b : Byte) : dioChangesUnderHighClk false d (byteWave b) = 0 := rfl

/-- `STOP` raises `DIO` under the `CLK` it has raised (R117). -/
theorem dioChanges_stopWave (d : Bool) : dioChangesUnderHighClk false d stopWave = 1 := rfl

theorem dioChanges_bytes (d : Bool) (bytes : List Byte) :
    dioChangesUnderHighClk false d (bytes.flatMap byteWave) = 0 := by
  induction bytes generalizing d with
  | nil => rfl
  | cons b rest ih => rw [List.flatMap_cons, dioChanges_append, dioChanges_byteWave, levelsAfter_byteWave, ih]

/-- A transaction changes `DIO` under a high `CLK` in its `STOP`, and in its `START` if both lines were high (R117, R118). -/
theorem dioChanges_txnWave (c d : Bool) (bytes : List Byte) :
    dioChangesUnderHighClk c d (txnWave bytes) = (if c && d then 1 else 0) + 1 := by
  rw [txnWave, dioChanges_append, dioChanges_append, levelsAfter_append, levelsAfter_startWave, dioChanges_startWave,
    dioChanges_bytes, clk_low_after_bytes, dioChanges_stopWave]

/-- Settles O16: the events of a transaction are its wave, whose levels and changes of `DIO` are known from any levels. -/
theorem dataChangesUnderHighClockOnlyAtStartAndStop : Obligations.DataChangesUnderHighClockOnlyAtStartAndStop := by
  intro s bytes
  have hlevels := levelsAfter_txnWave s.clk s.dio bytes
  rw [State.dataTransaction_eq]
  refine ⟨txnWave bytes, rfl, hlevels.symm, hlevels, fun hclk hdio => ?_, fun hclk hdio => ?_⟩
  · rw [dioChanges_txnWave, hclk, hdio]; rfl
  · rw [dioChanges_txnWave, hclk, hdio]; rfl

/-! The rising edges of `CLK` (R119): one in each slot, with `DIO` as the slot left it. -/

theorem risingEdges_slot (b : Byte) (k : Nat) (d : Bool) (es : List Event) :
    risingEdges false d (slotWave b k ++ es) = b.getLsbD k :: risingEdges false (b.getLsbD k) es := rfl

theorem risingEdges_ackWave (d : Bool) : risingEdges false d ackWave = [d] := rfl

/-- The data slots deliver their bits in order, and the ACK slot the last of them again. -/
theorem risingEdges_slots (b : Byte) (ks : List Nat) (k : Nat) (d : Bool) :
    risingEdges false d ((ks ++ [k]).flatMap (slotWave b) ++ ackWave) =
      (ks ++ [k]).map (fun j => b.getLsbD j) ++ [b.getLsbD k] := by
  induction ks generalizing d with
  | nil => simp [risingEdges_slot, risingEdges_ackWave]
  | cons j rest ih =>
    rw [List.cons_append, List.flatMap_cons, List.append_assoc, risingEdges_slot, ih]
    rfl

/-- Settles O17: from a low `CLK` the wave of the byte has one rising edge in each of its nine slots. -/
theorem nineRisingEdgesCarryTheByte : Obligations.NineRisingEdgesCarryTheByte := by
  intro b s t hclk h
  rw [exec_writeByte, State.uopWriteByte_eq] at h
  cases h
  refine ⟨byteWave b, rfl, ?_⟩
  rw [hclk]
  exact risingEdges_slots b [0, 1, 2, 3, 4, 5, 6] 7 s.dio

/-! What an operation appends (R115, R63). -/

/-- Settles O40: `exec_did` gives what is appended, in either state, by the operands and `BRIGHT`. -/
theorem appendedEventsDependOnBrightAlone : Obligations.AppendedEventsDependOnBrightAlone := by
  intro i s₁ s₂ t₁ t₂ hi hbright h₁ h₂
  have did₁ := exec_did hi h₁
  have did₂ := exec_did hi h₂
  refine ⟨appendedEvents i s₂.bright, appendedTxns i s₂.bright, repliesOf i s₂.bright,
    ?_, did₂.tr, ?_, did₂.bl, ?_, did₂.replies, ?_⟩
  · rw [did₁.tr, hbright]
  · rw [did₁.bl, hbright]
  · rw [did₁.replies, hbright]
  · rw [did₁.bright, did₂.bright, hbright]

end Sys2Proof.Machine
end

section
/-! PROOFS, family 41_segment_encoder: the segment ROM, and the encoder as functions of characters and digits (R131 to R136). -/

namespace Sys2Proof.Machine

open Sys2Proof.Safety

/-! The ROM (R131, R52). -/

theorem segRom_of_digit {i : Fin 38} (hi : i.val < 16) : segRom i = digitPatterns[i.val] := dif_pos hi

theorem segRom_of_letter {i : Fin 38} (hlow : ¬ i.val < 16) (hhigh : i.val < 36) :
    segRom i = (Config.segLetter ⟨i.val - 16, by omega⟩).zeroExtend 8 := by
  rw [segRom, dif_neg hlow, dif_pos hhigh]

theorem segRom_dash : segRom 36 = Config.dash := rfl

theorem segRom_star : segRom 37 = Config.star.zeroExtend 8 := rfl

/-- A pattern of seven bits, as the OPEN entries are (D9), has bit 7 clear. -/
theorem bit7_zeroExtend (pattern : BitVec 7) : (pattern.zeroExtend 8).getLsbD 7 = false := by
  simp

theorem digitPatterns_bit7 : ∀ i : Fin 16, (digitPatterns[i]).getLsbD 7 = false := by decide

theorem segRom_bit7 (i : Fin 38) : (segRom i).getLsbD 7 = false := by
  by_cases hdigit : i.val < 16
  · rw [segRom_of_digit hdigit]
    exact digitPatterns_bit7 ⟨i.val, hdigit⟩
  by_cases hletter : i.val < 36
  · rw [segRom_of_letter hdigit hletter, bit7_zeroExtend]
  obtain hdash | hstar : i = 36 ∨ i = 37 := by omega
  · rw [hdash, segRom_dash]
    rfl
  · rw [hstar, segRom_star, bit7_zeroExtend]

/-- Settles O19: the seventeen entries compute, and bit 7 is clear in each part of the ROM. -/
theorem romContents : Obligations.RomContents := ⟨rfl, segRom_bit7⟩

/-! Digits (R132). -/

theorem digitIndex_val (d : Byte) : (digitIndex d).val = (d &&& 0x0F).toNat := by
  rw [BitVec.toNat_and]
  exact (Nat.and_two_pow_sub_one_eq_mod d.toNat 4).symm

/-! Characters, class by class (R133). -/

theorem encodeChar_of_upper {c : Byte} {k : Nat} (hk : k < 26) (hc : c.toNat = 0x41 + k) :
    encodeChar c = (segRom ⟨10 + k, by omega⟩, []) := by
  rw [encodeChar, if_neg (by omega), if_neg (by omega), if_neg (by omega), dif_pos (by omega)]
  simp only [hc, Nat.add_sub_cancel_left]

theorem encodeChar_of_lower {c : Byte} {k : Nat} (hk : k < 26) (hc : c.toNat = 0x61 + k) :
    encodeChar c = (segRom ⟨10 + k, by omega⟩, []) := by
  rw [encodeChar, if_neg (by omega), if_neg (by omega), if_neg (by omega), dif_neg (by omega), dif_pos (by omega)]
  simp only [hc, Nat.add_sub_cancel_left]

theorem encodeChar_of_digit {c : Byte} {k : Nat} (hk : k < 10) (hc : c.toNat = 0x30 + k) :
    encodeChar c = (segRom ⟨k, by omega⟩, []) := by
  rw [encodeChar, if_neg (by omega), if_neg (by omega), if_neg (by omega), dif_neg (by omega), dif_neg (by omega),
    dif_pos (by omega)]
  simp only [hc, Nat.add_sub_cancel_left]

/-- A character of no class (R184). -/
theorem encodeChar_of_miss {c : Byte} (hspace : c ≠ 0x20) (hstar : c ≠ 0x2A) (hdash : c ≠ 0x2D)
    (hupper : ¬ (0x41 ≤ c.toNat ∧ c.toNat ≤ 0x5A)) (hlower : ¬ (0x61 ≤ c.toNat ∧ c.toNat ≤ 0x7A))
    (hdigit : ¬ (0x30 ≤ c.toNat ∧ c.toNat ≤ 0x39)) : encodeChar c = (0x00, [.encodingMiss c]) := by
  have hspace' : c.toNat ≠ 0x20 := fun h => hspace (BitVec.eq_of_toNat_eq h)
  have hstar' : c.toNat ≠ 0x2A := fun h => hstar (BitVec.eq_of_toNat_eq h)
  have hdash' : c.toNat ≠ 0x2D := fun h => hdash (BitVec.eq_of_toNat_eq h)
  rw [encodeChar, if_neg hspace', if_neg hstar', if_neg hdash', dif_neg hupper, dif_neg hlower, dif_neg hdigit]
  rfl

/-- The code `k` places after the first of a class of at most 26 characters. -/
theorem toNat_add_ofNat {base : Byte} {k : Nat} (hbase : base.toNat ≤ 0x61) (hk : k < 26) :
    (base + BitVec.ofNat 8 k).toNat = base.toNat + k := by
  rw [BitVec.toNat_add, BitVec.toNat_ofNat]
  omega

/-! The formatted digits of `HEX` and `NUMBER` (R135, R136): every digit is one of the sixteen that `hexChr` writes. -/

theorem hexChr_toNat {n : Nat} (hn : n < 16) : (hexChr n).toNat = if n ≤ 9 then 0x30 + n else 0x61 + (n - 10) := by
  unfold hexChr
  split
  · rw [BitVec.toNat_ofNat]; omega
  · rw [BitVec.toNat_ofNat]; omega

theorem hexChr_of_decimal {n : Nat} (hn : n < 10) : hexChr n = BitVec.ofNat 8 (0x30 + n) := if_pos (by omega)

/-- Formatting a digit and encoding the character reads the digit's entry. -/
theorem encodeChar_hexChr {n : Nat} (hn : n < 16) : encodeChar (hexChr n) = (segRom ⟨n, by omega⟩, []) := by
  have hcode := hexChr_toNat hn
  by_cases hdecimal : n ≤ 9
  · rw [if_pos hdecimal] at hcode
    exact encodeChar_of_digit (by omega) hcode
  · rw [if_neg hdecimal] at hcode
    rw [encodeChar_of_lower (by omega) hcode]
    simp only [Nat.add_sub_cancel' (show 10 ≤ n by omega)]

theorem encodeString_hexChr {a b c d : Nat} (ha : a < 16) (hb : b < 16) (hc : c < 16) (hd : d < 16) :
    encodeString (#v[hexChr a, hexChr b, hexChr c, hexChr d] : Vector Byte 4).toList =
      ([segRom ⟨a, by omega⟩, segRom ⟨b, by omega⟩, segRom ⟨c, by omega⟩, segRom ⟨d, by omega⟩], []) := by
  have hlist : (#v[hexChr a, hexChr b, hexChr c, hexChr d] : Vector Byte 4).toList =
      [hexChr a, hexChr b, hexChr c, hexChr d] := rfl
  rw [encodeString_window, hlist]
  simp only [List.map_cons, List.map_nil, List.flatMap_cons, List.flatMap_nil, encodeChar_hexChr ha, encodeChar_hexChr hb,
    encodeChar_hexChr hc, encodeChar_hexChr hd, List.append_nil]

/-- The four bits from bit `k` on are a hexadecimal digit (R135). -/
theorem toNat_extract_nibble (value : Half) (k : Nat) : (value.extractLsb' k 4).toNat = value.toNat / 2 ^ k % 16 := by
  rw [BitVec.extractLsb'_toNat, Nat.shiftRight_eq_div_pow]

theorem hexChars_eq (value : Half) :
    hexChars value = #v[hexChr (value.toNat / 4096 % 16), hexChr (value.toNat / 256 % 16),
      hexChr (value.toNat / 16 % 16), hexChr (value.toNat % 16)] := by
  simp only [hexChars, toNat_extract_nibble, Nat.reducePow, Nat.div_one]

theorem numberChars_eq {value : Half} (hvalue : value.toNat ≤ 9999) :
    numberChars value = #v[hexChr (value.toNat / 1000 % 10), hexChr (value.toNat / 100 % 10),
      hexChr (value.toNat / 10 % 10), hexChr (value.toNat % 10)] := by
  have hdecimal : ∀ n, hexChr (n % 10) = BitVec.ofNat 8 (0x30 + n % 10) := fun n => hexChr_of_decimal (by omega)
  have hfirst : value.toNat / 1000 % 10 = value.toNat / 1000 := by omega
  rw [hdecimal, hdecimal, hdecimal, hdecimal, hfirst]
  rfl

theorem encodeString_hexChars (value : Half) :
    encodeString (hexChars value).toList =
      ([segRom ⟨value.toNat / 4096 % 16, by omega⟩, segRom ⟨value.toNat / 256 % 16, by omega⟩,
        segRom ⟨value.toNat / 16 % 16, by omega⟩, segRom ⟨value.toNat % 16, by omega⟩], []) := by
  rw [hexChars_eq]
  exact encodeString_hexChr (by omega) (by omega) (by omega) (by omega)

theorem encodeString_numberChars {value : Half} (hvalue : value.toNat ≤ 9999) :
    encodeString (numberChars value).toList =
      ([segRom ⟨value.toNat / 1000 % 10, by omega⟩, segRom ⟨value.toNat / 100 % 10, by omega⟩,
        segRom ⟨value.toNat / 10 % 10, by omega⟩, segRom ⟨value.toNat % 10, by omega⟩], []) := by
  rw [numberChars_eq hvalue]
  exact encodeString_hexChr (by omega) (by omega) (by omega) (by omega)

theorem hexChars_getElem (value : Half) (k : Fin 4) :
    (hexChars value)[k] = hexChr (value.toNat / 16 ^ (3 - k.val) % 16) := by
  rw [hexChars_eq]
  match k with
  | 0 | 1 | 2 => rfl
  | 3 => simp

theorem numberChars_getElem {value : Half} (hvalue : value.toNat ≤ 9999) (k : Fin 4) :
    (numberChars value)[k] = hexChr (value.toNat / 10 ^ (3 - k.val) % 10) := by
  rw [numberChars_eq hvalue]
  match k with
  | 0 | 1 | 2 => rfl
  | 3 => simp

end Sys2Proof.Machine
end

section
/-! PROOFS, family 41_segment_encoder: the operations of the `ENC` port, what each answers and what it leaves alone (R130 to R136). -/

namespace Sys2Proof.Machine

open Sys2Proof.Safety

/-- A port that takes a packet's operands changes the latches and the counter of free values alone (R21). -/
theorem State.latch_eq_relatched (s : State) (i : Instr) : s.latch i = relatched (s.latch i).x (s.latch i).fresh s := by
  cases hbusy : s.busy
  · rw [s.latch_of_not_busy i hbusy]; rfl
  · rw [s.latch_of_busy i hbusy]; rfl

/-! What is answered. -/

/-- A well-formed operation of the `ENC` port whose body replies `r` answers `r`. -/
theorem answers_of_reply {i : Instr} {s : State} {r : Reply} (hexec : exec i s = runEnc i (fun u => u.reply r) s)
    (hwf : i.illFormed = none) : answers i s r := by
  refine ⟨(s.latch i).x, (s.latch i).fresh, ?_⟩
  rw [hexec, runEnc_of_wellFormed _ s hwf, s.latch_eq_relatched i]
  rfl

theorem answers_encodeDigit (d : Byte) (s : State) : answers (.encodeDigit d) s (.seg (segRom (digitIndex d)) []) :=
  answers_of_reply (exec_encodeDigit s d) rfl

theorem answers_encodeChar {c v : Byte} {ds : List Diag} (hc : encodeChar c = (v, ds)) (s : State) :
    answers (.encodeChar c) s (.seg v ds) := by
  have h := answers_of_reply (exec_encodeChar s c) rfl
  rwa [hc] at h

theorem strCheck_of_wellFormed {str : List Byte} (hlen : str.length ≤ 65535) (hzero : 0 ∉ str) : strCheck str = none := by
  have hfits : ¬ Config.maxStrLen < str.length := Nat.not_lt.2 hlen
  rw [strCheck, if_neg hfits, if_neg hzero]

theorem answers_encodeString {str : List Byte} (hlen : str.length ≤ 65535) (hzero : 0 ∉ str) (s : State) :
    answers (.encodeString str) s (.segs (encodeString str).1 (encodeString str).2) :=
  answers_of_reply (exec_encodeString s str) (strCheck_of_wellFormed hlen hzero)

/-- Settles O20: the answer reads the ROM at `digitIndex`, which is the masked operand. -/
theorem encodeDigitReadsTheMaskedIndex : Obligations.EncodeDigitReadsTheMaskedIndex := fun s =>
  ⟨fun d => ⟨digitIndex d, digitIndex_val d, answers_encodeDigit d s⟩, answers_encodeDigit 0 s, answers_encodeDigit 9 s⟩

/-- Settles O21: `ENCODE_CHAR` answers `encodeChar`, which is known for each class. -/
theorem encodeCharByClass : Obligations.EncodeCharByClass := by
  intro s
  refine ⟨?_, ?_, ?_, fun k => ⟨?_, ?_⟩, fun k => ?_, fun c hspace hstar hdash hupper hlower hdigit => ?_⟩
  · exact answers_encodeChar rfl s
  · exact answers_encodeChar rfl s
  · exact answers_encodeChar rfl s
  · exact answers_encodeChar (encodeChar_of_upper k.isLt (toNat_add_ofNat (by decide) k.isLt)) s
  · exact answers_encodeChar (encodeChar_of_lower k.isLt (toNat_add_ofNat (by decide) k.isLt)) s
  · exact answers_encodeChar (encodeChar_of_digit k.isLt (toNat_add_ofNat (by decide) (by omega))) s
  · exact answers_encodeChar (encodeChar_of_miss hspace hstar hdash hupper hlower hdigit) s

/-- Settles O22: `ENCODE_STRING` answers `encodeString`, a map over the first four characters (`encodeString_eq`). -/
theorem encodeStringEncodesTheFirstFour : Obligations.EncodeStringEncodesTheFirstFour := by
  intro str s hlen hzero
  have h := answers_encodeString hlen hzero s
  rwa [encodeString_eq] at h

/-! `HEX` and `NUMBER` write `FMT` and answer it encoded (R135, R136). -/

/-- The whole next state of a well-formed operation that writes `w` to `FMT` and replies with what `w` encodes to. -/
theorem exec_of_replyFmt {i : Instr} {s : State} {w : Vector Byte 4} {vs : List Byte} {ds : List Diag}
    (hexec : exec i s = runEnc i (fun u => (u.setFmt w).replyFmt) s) (hwf : i.illFormed = none)
    (hw : encodeString w.toList = (vs, ds)) :
    exec i s = .next { relatched (s.latch i).x (s.latch i).fresh s with
      fmt := w, replies := s.replies ++ [.segs vs ds] } := by
  have hreply : ∀ u : State, (u.setFmt w).replyFmt = (u.setFmt w).reply (.segs vs ds) := fun u => by
    rw [State.replyFmt, State.setFmt_fmt, hw]
  rw [hexec, runEnc_of_wellFormed _ s hwf, hreply, s.latch_eq_relatched i]
  rfl

/-- Settles O23: `FMT` is `hexChars`, whose characters format the four digits and encode to their entries. -/
theorem hexShowsFourHexDigits : Obligations.HexShowsFourHexDigits := by
  intro value s
  refine ⟨hexChars value, _, _, exec_of_replyFmt (exec_hex s value) rfl (encodeString_hexChars value), fun k => ?_⟩
  rw [hexChars_getElem]
  exact hexChr_toNat (Nat.mod_lt _ (by decide))

/-- Settles O24: as `HEX` with decimal digits, `numberChars` being `FMT`; above 9999 the packet fails `WF_NUMBER`. -/
theorem numberShowsFourDecimalDigits : Obligations.NumberShowsFourDecimalDigits := by
  intro value s
  have hrefused : 9999 < value.toNat → (Instr.number value).illFormed = some .number := fun hbig => if_pos hbig
  refine ⟨fun hvalue => ?_, fun hbig => exec_of_illFormed (hrefused hbig) s⟩
  have hwf : (Instr.number value).illFormed = none := if_neg (Nat.not_lt.2 hvalue)
  refine ⟨numberChars value, _, _, exec_of_replyFmt (exec_number s value) hwf (encodeString_numberChars hvalue), fun k => ?_⟩
  have hdigit : value.toNat / 10 ^ (3 - k.val) % 10 < 10 := Nat.mod_lt _ (by decide)
  rw [numberChars_getElem hvalue, hexChr_toNat (by omega), if_pos (by omega)]

/-! What an encoder operation depends on and what it leaves alone (R130). -/

/-- An encoder operation gives one reply, whatever `BRIGHT` is. -/
theorem repliesOf_enc {i : Instr} (hi : i.source = .enc) : ∃ r, ∀ b, repliesOf i b = [r] := by
  cases i with
  | encodeDigit | encodeChar | encodeString | hex | number => exact ⟨_, fun _ => rfl⟩
  | _ => cases hi

/-- Settles O25: `exec_did` gives the reply in either state, and `repliesOf_enc` that it is the same one. -/
theorem encoderReplyDependsOnNoState : Obligations.EncoderReplyDependsOnNoState := by
  intro i s₁ s₂ t₁ t₂ hi h₁ h₂
  obtain ⟨r, hr⟩ := repliesOf_enc hi
  refine ⟨r, ?_, ?_⟩
  · rw [(exec_did (.inr hi) h₁).replies, hr]
  · rw [(exec_did (.inr hi) h₂).replies, hr]

/-- Every encoder operation takes its operands and replies; `HEX` and `NUMBER` write `FMT` in between. -/
theorem exec_enc_next {i : Instr} {s t : State} (hi : i.source = .enc) (h : exec i s = .next t) :
    ∃ w r, t = ((s.latch i).setFmt w).reply r ∧ ((∀ v, i ≠ .hex v) → (∀ v, i ≠ .number v) → w = s.fmt) := by
  have hreply : ∀ {r}, exec i s = runEnc i (fun u => u.reply r) s →
      ∃ w r, t = ((s.latch i).setFmt w).reply r ∧ ((∀ v, i ≠ .hex v) → (∀ v, i ≠ .number v) → w = s.fmt) := by
    intro r hexec
    obtain ⟨_, rfl⟩ := runEnc_next (hexec.symm.trans h)
    exact ⟨(s.latch i).fmt, r, rfl, fun _ _ => s.latch_fmt i⟩
  cases i with
  | encodeDigit d => exact hreply (exec_encodeDigit s d)
  | encodeChar c => exact hreply (exec_encodeChar s c)
  | encodeString str => exact hreply (exec_encodeString s str)
  | hex value =>
    obtain ⟨_, rfl⟩ := runEnc_next ((exec_hex s value).symm.trans h)
    exact ⟨_, _, rfl, fun hhex => absurd rfl (hhex value)⟩
  | number value =>
    obtain ⟨_, rfl⟩ := runEnc_next ((exec_number s value).symm.trans h)
    exact ⟨_, _, rfl, fun _ hnumber => absurd rfl (hnumber value)⟩
  | _ => cases hi

/-- Settles O26: the three parts of an encoder operation write the latches, `FMT` and the replies only. -/
theorem encoderFrame : Obligations.EncoderFrame := by
  intro i s t hi h
  obtain ⟨w, r, rfl, hfmt⟩ := exec_enc_next hi h
  refine ⟨?_, hfmt⟩
  rw [s.latch_eq_relatched i]
  rfl

end Sys2Proof.Machine
end

section
/-! PROOFS, family 42_display_controller: the whole next state of each operation of the `CTL` port (R150 to R157), the events each
appends (R159) and the transaction each ends with (R160). -/

namespace Sys2Proof.Machine

open Sys2Proof.Safety

/-! Around a body: acceptance and end, from a state at rest (R60). -/

theorem State.finish_of_atRest {s : State} (hrest : atRest s) : s.finish = s := by
  obtain ⟨hbusy, htxn, hseq⟩ := hrest
  rw [State.finish, ← hbusy, ← htxn, ← hseq]

/-- `s` with `op` in progress and these latches: where the body of `op` starts; tied to the model by `accept_of_atRest`. -/
def State.running (op : CtlOp) (x : Latches) (n : Nat) (s : State) : State :=
  { relatched x n s with busy := true, seq := { Seq.idle with op := some op } }

theorem State.accept_of_atRest {s : State} (hrest : atRest s) (op : CtlOp) (i : Instr) :
    s.accept op i = s.running op (latched i (Config.freeLatches s.fresh)) (s.fresh + 1) :=
  s.accept_of_not_busy op i hrest.1

/-- What an accepted operation answers is what its body leaves, with the handshake over. It is enough to compare that with a state
at rest `next x n`, for the latches `x` and the count `n` that acceptance left. -/
theorem exec_of_accepted {i : Instr} {op : CtlOp} {s : State} {next : Latches → Nat → State} (hop : ctlOp i = some op)
    (hwf : i.illFormed = none) (hrest : atRest s) (hcon : s.constructed = true ↔ op ≠ .construct)
    (hnext : ∀ x n, atRest (next x n))
    (hbody : ∀ free n, ((s.running op (latched i free) n).ctlBody op).finish = (next (latched i free) n).finish) :
    ∃ x n, exec i s = .next (next x n) := by
  refine ⟨latched i (Config.freeLatches s.fresh), s.fresh + 1, ?_⟩
  rw [exec_eq_runCtl hop, runCtl_of_accepted _ hwf hrest.1 hcon, State.accept_of_atRest hrest, hbody,
    State.finish_of_atRest (hnext _ _)]

/-- `exec_of_accepted` for the operations a constructed CORE accepts (R84). -/
theorem exec_of_ready {i : Instr} {op : CtlOp} {s : State} {next : Latches → Nat → State} (hop : ctlOp i = some op)
    (hother : op ≠ .construct) (hwf : i.illFormed = none) (hready : ready s) (hnext : ∀ x n, atRest (next x n))
    (hbody : ∀ free n, ((s.running op (latched i free) n).ctlBody op).finish = (next (latched i free) n).finish) :
    ∃ x n, exec i s = .next (next x n) :=
  exec_of_accepted hop hwf hready.1 (iff_of_true hready.2 hother) hnext hbody

/-! The waveforms of what the operations send, one transaction after the other (R116). -/

theorem logWave_brightTxns (b : BitVec 3) : logWave (brightTxns b) = txnWave [0x40] ++ txnWave [dispByte b] := by
  simp [logWave, brightTxns]

theorem logWave_autoTxns (pos : Byte) (segs : List Byte) (b : BitVec 3) :
    logWave (autoTxns pos segs b) = txnWave [0x40] ++ txnWave ((0xC0 ||| pos) :: segs) ++ txnWave [dispByte b] := by
  simp [logWave, autoTxns]

theorem logWave_fixedTxns (pos data : Byte) (b : BitVec 3) :
    logWave (fixedTxns pos data b) = txnWave [0x44] ++ txnWave [0xC0 ||| pos, data] ++ txnWave [dispByte b] := by
  simp [logWave, fixedTxns]

/-! `CONSTRUCT` and the brightness (R150 to R152). -/

/-- Settles O27: accepted, `CONSTRUCT` does what `constructBody_eq` says; the refusals are those of its two checks. -/
theorem constructBringsUpTheController : Obligations.ConstructBringsUpTheController := by
  refine ⟨fun c d s hne hrest => ?_, fun c s => ?_⟩
  · have hwf : (Instr.construct c d).illFormed = none := if_neg hne
    refine ⟨fun hcon => ?_, fun hcon => ?_⟩
    · refine exec_of_accepted (op := .construct) rfl hwf hrest (by simp [hcon]) (fun _ _ => hrest) fun _ _ => ?_
      rw [State.ctlBody, State.constructBody_eq, logWave_brightTxns]
      rfl
    · exact exec_of_ctlRefusal rfl ((ctlRefusal_of_wellFormed hwf).trans (ctlStateCheck_construct_again hrest.1 hcon))
  · have hlines : (Instr.construct c c).illFormed = some .lines := if_pos rfl
    exact exec_of_illFormed hlines s

/-- Settles O28: the body is the reply. -/
theorem brightnessGetReturnsTheStoredValue : Obligations.BrightnessGetReturnsTheStoredValue := fun _ hready =>
  exec_of_ready (op := .brightnessGet) rfl (by decide) rfl hready (fun _ _ => hready.1) fun _ _ => rfl

theorem zeroExtend_maskBright (v : Byte) : (maskBright v).zeroExtend 8 = v &&& 7 := by
  have hmask : v.toNat &&& 7 = v.toNat % 8 := Nat.and_two_pow_sub_one_eq_mod v.toNat 3
  apply BitVec.eq_of_toNat_eq
  simp [maskBright, hmask]
  omega

theorem maskBright_eq_setWidth (v : Byte) : maskBright v = (v &&& 7).setWidth 3 := by
  rw [← zeroExtend_maskBright]
  simp

theorem dispByte_maskBright (v : Byte) : dispByte (maskBright v) = 0x88 ||| (v &&& 7) := by
  rw [dispByte, zeroExtend_maskBright]
  rfl

/-- Settles O29: `brightnessSetBody_eq`, its mask and its display-control byte as R95 and R92 write them. -/
theorem brightnessSetMasksDiagnosesAndSends : Obligations.BrightnessSetMasksDiagnosesAndSends := by
  intro v s hready
  refine exec_of_ready (op := .brightnessSet) rfl (by decide) rfl hready (fun _ _ => hready.1) fun _ _ => ?_
  rw [State.ctlBody, State.brightnessSetBody_eq, logWave_brightTxns, brightTxns, dispByte_maskBright,
    maskBright_eq_setWidth, List.append_assoc]
  rfl

/-! `WRITE` and `SHOW` (R153, R154). -/

theorem positionValid_iff (pos : Byte) : positionValid pos = true ↔ 0 ≤ pos.toInt ∧ pos.toInt ≤ 4 := by
  rw [positionValid, Bool.and_eq_true, decide_eq_true_iff, decide_eq_true_iff]
  rfl

theorem positionValid_of_between {pos : Byte} (hlow : 0 ≤ pos.toInt) (hhigh : pos.toInt ≤ 4) : positionValid pos = true :=
  (positionValid_iff pos).2 ⟨hlow, hhigh⟩

theorem positionValid_of_outside {pos : Byte} (hout : pos.toInt < 0 ∨ 4 < pos.toInt) : positionValid pos = false := by
  rw [← Bool.not_eq_true, positionValid_iff]
  omega

/-- Settles O30: the two branches of the position check. -/
theorem writeSendsThreeTransactionsOrOneDiagnostic : Obligations.WriteSendsThreeTransactionsOrOneDiagnostic := by
  intro pos segs s hlen hready
  have hwf : (Instr.write pos segs).illFormed = none := if_neg (Nat.not_lt.2 hlen)
  refine ⟨fun hlow hhigh => ?_, fun hout => ?_⟩
  · refine exec_of_ready (op := .write) rfl (by decide) hwf hready (fun _ _ => hready.1) fun free n => ?_
    change (State.writeBody _ segs pos).finish = _
    rw [State.writeBody_valid _ _ _ (positionValid_of_between hlow hhigh) hlen, logWave_autoTxns]
    rfl
  · refine exec_of_ready (op := .write) rfl (by decide) hwf hready (fun _ _ => hready.1) fun free n => ?_
    change (State.writeBody _ segs pos).finish = _
    rw [State.writeBody_invalid _ _ _ (positionValid_of_outside hout)]
    rfl

/-- Settles O32: `showBody_eq`; the values are `shown_getElem?`, the diagnostics a map over the first four characters. -/
theorem showWritesTheEncodedStringAtZero : Obligations.ShowWritesTheEncodedStringAtZero := by
  intro colon str s hlen hzero hready
  have hwf : (Instr.showText colon str).illFormed = none := strCheck_of_wellFormed hlen hzero
  have hshown : (withColon colon (encodeString str).1).length = min str.length 4 := by
    rw [withColon_length, encodeString_length]
  have hdiags : (encodeString str).2 = (str.take 4).flatMap fun c => (encodeChar c).2 := by rw [encodeString_eq]
  refine ⟨withColon colon (encodeString str).1, ?_⟩
  simp only [exists_and_left]
  refine ⟨hshown, fun k hk => ?_, ?_⟩
  · rw [hshown] at hk
    have hsecond : (k = 1 ∧ 1 < str.length) ↔ k = 1 := by omega
    simp only [shown_getElem? colon hk, hsecond]
  · refine exec_of_ready (op := .showText) rfl (by decide) hwf hready (fun _ _ => hready.1) fun free n => ?_
    rw [State.ctlBody, State.showBody_eq, logWave_autoTxns, ← hdiags]
    rfl

/-! `SET_RAW` and `SET_CHAR` (R155, R156). -/

/-- Settles O33: `setRawBody_eq`, for every position. -/
theorem setRawSendsModeAddressDataDisplay : Obligations.SetRawSendsModeAddressDataDisplay := by
  intro pos data s hready
  refine exec_of_ready (op := .setRaw) rfl (by decide) rfl hready (fun _ _ => hready.1) fun _ _ => ?_
  rw [State.ctlBody, State.setRawBody_eq, logWave_fixedTxns]
  rfl

theorem withDot_eq_or (dot : Bool) (v : Byte) : withDot dot v = v ||| (if dot = true then 0x80 else 0) := by
  cases dot <;> simp [withDot, Config.dotBit]

/-- Settles O34: `setCharBody_eq`, its pattern the dot step of the encoded character. -/
theorem setCharSetsTheEncodedCharacter : Obligations.SetCharSetsTheEncodedCharacter := by
  intro pos ch dot s hready
  simp only [exists_and_left, exists_eq_left, ← withDot_eq_or]
  refine exec_of_ready (op := .setChar) rfl (by decide) rfl hready (fun _ _ => hready.1) fun _ _ => ?_
  rw [State.ctlBody, State.setCharBody_eq, logWave_fixedTxns]
  rfl

/-! `SCROLL` (R157): its rounds over the windows as lists, and what it leaves alone. -/

/-- A map over the windows `SCROLL` shows is one over the slices of four characters of the first window and the string. -/
theorem flatMap_windows {α : Type} (f : List Byte → List α) (w : Vector Byte 4) (str : List Byte) :
    ((windows w str).flatMap fun v => f v.toList) =
      ((List.range str.length).map fun k => ((w.toList ++ str).drop (k + 1)).take 4).flatMap f := by
  rw [← windows_toList, List.flatMap_map]

/-- The events of the round that shows the characters `w`; tied to the model by `roundWave_eq_windowEvents`. -/
def windowEvents (delayMs : Half) (b : BitVec 3) (w : List Byte) : List Event :=
  [.sleep delayMs] ++ (w.flatMap fun c => (encodeChar c).2).map Event.diag ++
    (txnWave [0x40] ++ txnWave (0xC0 :: w.map fun c => (encodeChar c).1) ++ txnWave [dispByte b])

theorem roundWave_eq_windowEvents (delayMs : Half) (w : Vector Byte 4) (b : BitVec 3) :
    roundWave delayMs w b = windowEvents delayMs b w.toList := by
  rw [roundWave, encodeString_window, logWave_autoTxns]
  rfl

/-- The transactions of the round that shows the characters `w`; tied to the model by `autoTxns_eq_windowTxns`. -/
def windowTxns (b : BitVec 3) (w : List Byte) : List (List Byte) :=
  [[0x40], 0xC0 :: w.map fun c => (encodeChar c).1, [dispByte b]]

theorem autoTxns_eq_windowTxns (w : Vector Byte 4) (b : BitVec 3) :
    autoTxns 0 (encodeString w.toList).1 b = windowTxns b w.toList := by
  rw [encodeString_window]
  rfl

/-- All that `SCROLL` changes, the latches and the handshake aside, for an empty and a nonempty string; tied to the model by
`scrollBody_finish`. -/
def State.scrolled (s : State) (str : List Byte) (delayMs : Half) : State :=
  let last := str.foldl shiftWindow blankWindow
  { s with
      clk := if str = [] then s.clk else true
      dio := if str = [] then s.dio else true
      win := last
      segbuf := if str = [] then s.segbuf else (s.loadSegs (encodeString last.toList).1).segbuf
      seglen := if str = [] then s.seglen else 4
      tr := s.tr ++ (windows blankWindow str).flatMap fun w => windowEvents delayMs s.bright w.toList
      bl := s.bl ++ (windows blankWindow str).flatMap fun w => windowTxns s.bright w.toList }

theorem State.scrollBody_finish (s : State) (str : List Byte) (delayMs : Half) :
    (s.scrollBody str delayMs).finish = (s.scrolled str delayMs).finish := by
  by_cases hstr : str = []
  · subst hstr
    simp [State.scrollBody_nil, State.scrolled, State.setWin, State.finish, windows]
  · simp only [State.scrollBody_eq _ _ _ hstr, roundWave_eq_windowEvents, autoTxns_eq_windowTxns]
    simp [hstr, State.scrolled, State.setWin, State.loadSegs, State.finish, encodeString_length]

/-- Settles O35: `State.scrolled`, its window and its rounds as slices of four spaces and the string. -/
theorem scrollShowsEachWindow : Obligations.ScrollShowsEachWindow := by
  intro delayMs str s hlen hzero hready
  have hwf : (Instr.scroll delayMs str).illFormed = none := strCheck_of_wellFormed hlen hzero
  have hexec : ∃ x n, exec (.scroll delayMs str) s = .next ((relatched x n s).scrolled str delayMs) := by
    refine exec_of_ready (op := .scroll) rfl (by decide) hwf hready (fun _ _ => hready.1) fun _ _ => ?_
    rw [State.ctlBody, State.scrollBody_finish]
    rfl
  obtain ⟨x, n, hnext⟩ := hexec
  refine ⟨_, hnext, foldl_shiftWindow str blankWindow, ⟨?_, ?_⟩, rfl⟩
  · exact congrArg (s.tr ++ ·) (flatMap_windows (windowEvents delayMs s.bright) blankWindow str)
  · exact congrArg (s.bl ++ ·) (flatMap_windows (windowTxns s.bright) blankWindow str)

/-! The number of events of each kind (R159). -/

/-- What any instruction appends to `TR`: `appendedEvents` for one of a port, `uopWave` for a micro-operation. -/
theorem exec_appends {i : Instr} {s t : State} (h : exec i s = .next t) :
    ∃ es, t.tr = s.tr ++ es ∧ (hostInstr i → es = appendedEvents i s.bright) ∧ (i.source = .uop → es = uopWave i) := by
  by_cases hi : hostInstr i
  · refine ⟨_, (exec_did hi h).tr, fun _ => rfl, fun huop => ?_⟩
    rcases hi with hctl | henc
    · cases huop.symm.trans hctl
    · cases huop.symm.trans henc
  · by_cases huop : i.source = .uop
    · exact ⟨_, exec_uop_tr huop h, fun hhost => absurd hhost hi, fun _ => rfl⟩
    · obtain ⟨es, _, htr, _⟩ := exec_internal hi h
      exact ⟨es, htr, fun hhost => absurd hhost hi, fun hother => absurd hother huop⟩

theorem appendedEvents_enc {i : Instr} (hi : i.source = .enc) (b : BitVec 3) : appendedEvents i b = [] := by
  cases i with
  | encodeDigit | encodeChar | encodeString | hex | number => rfl
  | _ => cases hi

theorem counts_brightTxns (b : BitVec 3) : counts (logWave (brightTxns b)) = (0, 64, 64, 0, 0) := counts_log _

theorem counts_autoTxns (pos : Byte) (segs : List Byte) (b : BitVec 3) :
    counts (logWave (autoTxns pos segs b)) = (0, 96 + 27 * segs.length, 96 + 27 * segs.length, 0, 0) := by
  have hsum : ((autoTxns pos segs b).map fun t => 5 + 27 * t.length).sum = 96 + 27 * segs.length := by
    simp [autoTxns]
    omega
  rw [counts_log, hsum]

theorem counts_fixedTxns (pos data : Byte) (b : BitVec 3) :
    counts (logWave (fixedTxns pos data b)) = (0, 123, 123, 0, 0) := counts_log _

theorem counts_diags_append (ds : List Diag) {es : List Event} {k : Nat} (hes : counts es = (0, k, k, 0, 0)) :
    counts (ds.map .diag ++ es) = (0, k, k, 0, ds.length) := by
  rw [counts_append, counts_diags, hes]
  simp [addCounts]

theorem counts_rounds (delayMs : Half) (b : BitVec 3) (ws : List (Vector Byte 4)) :
    ∃ m ≤ 4 * ws.length, counts (ws.flatMap fun w => roundWave delayMs w b) =
      (0, 204 * ws.length, 204 * ws.length, ws.length, m) := by
  induction ws with
  | nil => exact ⟨0, Nat.le_refl _, rfl⟩
  | cons w rest ih =>
    obtain ⟨k, hk, hround⟩ := counts_round delayMs w b
    obtain ⟨m, hm, hrest⟩ := ih
    refine ⟨k + m, by rw [List.length_cons]; omega, ?_⟩
    rw [List.flatMap_cons, counts_append, hround, hrest]
    simp [addCounts]
    omega

/-- Settles O36: each row is the count of what the instruction appends (`exec_appends`). -/
theorem eventCounts : Obligations.EventCounts := by
  intro i s t h
  obtain ⟨es, htr, hhost, huop⟩ := exec_appends h
  refine ⟨es, htr, ?_, ?_, ?_, ?_, ?_, ?_, ?_, ?_, ?_, ?_, ?_, ?_, ?_, fun henc => ?_⟩
  -- the micro-operations
  · rintro rfl; rw [huop rfl]; rfl
  · rintro rfl; rw [huop rfl]; rfl
  · rintro b rfl; rw [huop rfl]; rfl
  · rintro c rfl; rw [huop rfl]; exact counts_txn [c]
  -- the `CTL` port
  · rintro c d rfl
    rw [hhost (.inl rfl), appendedEvents, counts_append, counts_brightTxns]
    rfl
  · rintro rfl; rw [hhost (.inl rfl)]; rfl
  · rintro v rfl
    have hdiags : (if 7 < v.toNat then [Event.diag (.brightnessRange v)] else []) =
        (if 7 < v.toNat then [Diag.brightnessRange v] else []).map .diag := by split <;> rfl
    rw [hhost (.inl rfl), appendedEvents, hdiags, counts_diags_append _ (counts_brightTxns _)]
    split <;> rfl
  · rintro pos segs rfl hlow hhigh
    rw [hhost (.inl rfl), appendedEvents, if_pos (positionValid_of_between hlow hhigh)]
    exact counts_autoTxns pos segs _
  · rintro pos segs rfl hout
    rw [hhost (.inl rfl), appendedEvents, positionValid_of_outside hout]
    rfl
  · rintro colon str rfl
    refine ⟨_, encodeString_diags str, ?_⟩
    rw [hhost (.inl rfl), appendedEvents, counts_diags_append _ (counts_autoTxns _ _ _), withColon_length,
      encodeString_length]
  · rintro pos data rfl
    rw [hhost (.inl rfl)]
    exact counts_fixedTxns pos data _
  · rintro pos ch dot rfl
    refine ⟨_, encodeChar_diags ch, ?_⟩
    rw [hhost (.inl rfl), appendedEvents, counts_diags_append _ (counts_fixedTxns _ _ _)]
  · rintro delayMs str rfl
    rw [hhost (.inl rfl), appendedEvents, ← windows_length blankWindow str]
    exact counts_rounds delayMs _ _
  -- the `ENC` port
  · rw [hhost (.inr henc), appendedEvents_enc henc]

/-! The last transaction (R160). -/

/-- Settles O39: what is sent ends so (`appendedTxns_tell_bright`), and the byte log ends as what was appended to it. -/
theorem lastTransactionIsDisplayControl : Obligations.LastTransactionIsDisplayControl := by
  intro i s t hi h hsent
  have did := exec_did hi h
  rw [did.bl] at hsent ⊢
  rcases appendedTxns_tell_bright i s.bright with ⟨hsilent, _⟩ | hlast
  · exact absurd (by rw [hsilent, List.append_nil]) hsent
  · rw [List.getLast?_append, hlast, did.bright, Option.some_or]

end Sys2Proof.Machine
end

section
/-! PROOFS, family 60_exceptions: the diagnostics (R180, R187), that nothing faults (R181), and several instances (R196). -/

namespace Sys2Proof.Machine

open Sys2Proof.Safety

/-! The diagnostics. -/

/-- What an operation of the `CTL` port other than `CONSTRUCT` and `SCROLL` appends to `TR`: its diagnostics, then the waveform of
what it sends (R187). -/
theorem appendedEvents_diags_first {i : Instr} {op : CtlOp} (hop : ctlOp i = some op) (hcon : op ≠ .construct)
    (hscroll : op ≠ .scroll) (b : BitVec 3) :
    ∃ ds : List Diag, appendedEvents i b = ds.map .diag ++ logWave (appendedTxns i b) := by
  cases i with
  | construct => cases hop; exact absurd rfl hcon
  | scroll => cases hop; exact absurd rfl hscroll
  | brightnessSet v =>
    refine ⟨if 7 < v.toNat then [.brightnessRange v] else [], congrArg (· ++ _) ?_⟩
    split <;> rfl
  | write pos segs =>
    cases hpos : positionValid pos with
    | true => exact ⟨[], by simp [appendedEvents, appendedTxns, hpos]⟩
    | false => exact ⟨[.positionRange pos], by simp [appendedEvents, appendedTxns, hpos, logWave]⟩
  | showText colon str => exact ⟨(encodeString str).2, rfl⟩
  | setChar pos ch dot => exact ⟨(encodeChar ch).2, rfl⟩
  | _ => exact ⟨[], rfl⟩

/-- Settles O38: what follows the diagnostics is the waveform of transactions, which holds line events only. -/
theorem diagnosticsComeBeforeLineWrites : Obligations.DiagnosticsComeBeforeLineWrites := by
  intro i op s t hop hcon hscroll h
  have hhost : hostInstr i := .inl ((source_eq_ctl_iff i).2 ⟨op, hop⟩)
  obtain ⟨ds, hds⟩ := appendedEvents_diags_first hop hcon hscroll s.bright
  exact ⟨ds, _, by rw [(exec_did hhost h).tr, hds], all_log _⟩

/-- Settles O41: by the definitions of a diagnostic's code and info. -/
theorem diagnosticCodes : Obligations.DiagnosticCodes :=
  ⟨fun _ => ⟨rfl, rfl⟩, fun _ => ⟨rfl, rfl⟩, fun _ => ⟨rfl, rfl⟩⟩

/-! No fault. -/

/-- A micro-operation or a bus command byte has no check: it always answers a next state. -/
theorem exec_internal_next {i : Instr} (hi : ¬ hostInstr i) (s : State) : ∃ t, exec i s = .next t := by
  cases hsource : i.source with
  | ctl => exact absurd (.inl hsource) hi
  | enc => exact absurd (.inr hsource) hi
  | bus =>
    obtain ⟨c, hc⟩ := exec_bus hsource s
    exact ⟨_, hc⟩
  | uop =>
    cases i with
    | start => exact ⟨_, exec_start s⟩
    | stop => exact ⟨_, exec_stop s⟩
    | writeByte b => exact ⟨_, exec_writeByte s b⟩
    | commandSequence c => exact ⟨_, exec_commandSequence s c⟩
    | _ => cases hsource

/-- Settles O45: the operations of a port are refused or run to their end, and the internal instructions always run. -/
theorem noOperationFaults : Obligations.NoOperationFaults := by
  intro i s f
  by_cases hi : hostInstr i
  · rcases hi with hctl | henc
    · obtain ⟨op, hop⟩ := (source_eq_ctl_iff i).1 hctl
      rw [exec_eq_runCtl hop]
      exact runCtl_ne_fault _ _ _ _ _
    · obtain ⟨body, hbody⟩ := exec_eq_runEnc henc
      rw [hbody]
      exact runEnc_ne_fault _ _ _ _
  · obtain ⟨t, ht⟩ := exec_internal_next hi s
    rw [ht]
    nofun

/-! The lines of two instances. -/

/-- A constructed CORE is apart from another when that is not constructed or has bound neither of its lines (R196). -/
theorem disjointLines_iff {a : State} (ha : a.constructed = true) (b : State) :
    disjointLines a b = true ↔ (b.constructed = true →
      b.clkId ≠ a.clkId ∧ b.clkId ≠ a.dioId ∧ b.dioId ≠ a.clkId ∧ b.dioId ≠ a.dioId) := by
  simp only [disjointLines, ha, Bool.true_and, Bool.or_eq_true, Bool.not_eq_true', Bool.and_eq_true, bne_iff_ne]
  grind

/-- What an accepted `CONSTRUCT` binds (R26). -/
theorem exec_construct_lines {c d : Byte} {s t : State} (h : exec (.construct c d) s = .next t) :
    t.constructed = true ∧ t.clkId = c ∧ t.dioId = d := by
  obtain ⟨_, hcon, _, _, _, _, hids, _⟩ := (exec_did (.inl rfl) h).con rfl
  injection hids with hc hd
  exact ⟨hcon, hc.symm, hd.symm⟩

/-- Settles O55: only `CONSTRUCT` writes the lines, and it binds those of its operands. -/
theorem instancesKeepTheirLinesApart : Obligations.InstancesKeepTheirLinesApart := by
  intro i a b t h hab hother
  cases hi : isConstruct i with
  | false =>
    obtain ⟨hcon, hclk, hdio⟩ := exec_keeps_lines h hi
    rw [disjointLines_congr hcon hclk hdio, hab]
  | true =>
    cases i with
    | construct c d =>
      obtain ⟨hcon, rfl, rfl⟩ := exec_construct_lines h
      obtain ⟨hcc, hcd, hdc, hdd⟩ := hother _ _ rfl
      exact (disjointLines_iff hcon b).2 fun _ => ⟨hcc.symm, hdc.symm, hcd.symm, hdd.symm⟩
    | _ => cases hi

/-! A step of several instances. -/

theorem disjointLines_of_valid {cs : List State} (hv : validConfiguration cs) {j k : Fin cs.length} (hj : j ≠ k) :
    disjointLines cs[k] cs[j] = true := by
  refine (validConfiguration_set hv k cs[k]).1 ?_ j hj
  rw [Fin.getElem_fin, List.set_getElem_self]
  exact hv

/-- A CORE that is not constructed takes the `CONSTRUCT` of two different lines (R150). -/
theorem step_construct {s : State} {a b : Byte} {rest : List Packet} (hne : a ≠ b) (hbusy : s.busy = false)
    (hcon : s.constructed = false) (hhead : s.inbox = encode (.construct a b) :: rest) :
    ∃ t, step s = .next t ∧ t.constructed = true ∧ t.clkId = a ∧ t.dioId = b := by
  have hwf : (Instr.construct a b).illFormed = none := if_neg hne
  have hrun := runCtl_of_accepted (op := .construct) (s := { s with inbox := rest }) State.constructBody hwf hbusy
    (by simp [hcon])
  refine ⟨_, ?_, exec_construct_lines hrun⟩
  rw [step_of_head hhead, runPacket_of_decodes (i := .construct a b) rfl]
  exact hrun

/-- Settles O56: the newly constructed CORE is apart from every other exactly when none has bound its lines. -/
theorem sharedLinesAreRefused : Obligations.SharedLinesAreRefused := by
  refine fun cs k => ⟨fun hinvalid => if_neg hinvalid, fun a b rest hv hne hbusy hcon hhead => ?_⟩
  obtain ⟨t, hstep, ht, rfl, rfl⟩ := step_construct hne hbusy hcon hhead
  have hvalid := validConfiguration_set hv k t
  refine ⟨fun ⟨j, hj, hshared⟩ => ?_, fun hfree => ⟨t, hstep, rfl, rfl, ?_⟩⟩
  · have hjk : j ≠ k := by
      rintro rfl
      exact absurd (hj.symm.trans hcon) (by decide)
    rw [stepInstance_of_next hv hstep, if_neg]
    intro hkept
    obtain ⟨hcc, hcd, hdc, hdd⟩ := (disjointLines_iff ht _).1 (hvalid.1 hkept j hjk) hj
    rcases hshared with h | h | h | h
    · exact hcc h
    · exact hcd h
    · exact hdc h
    · exact hdd h
  · rw [stepInstance_of_next hv hstep, if_pos (hvalid.2 fun j _ => (disjointLines_iff ht _).2 (hfree j))]

/-- Only a `CONSTRUCT` packet changes what lines a CORE has bound (R26, R27). -/
theorem step_keeps_lines {s t : State} (h : step s = .next t)
    (hother : ∀ (a b : Byte) (rest : List Packet), s.inbox ≠ encode (.construct a b) :: rest) :
    t.constructed = s.constructed ∧ t.clkId = s.clkId ∧ t.dioId = s.dioId := by
  rcases step_next h with ⟨_, rfl⟩ | ⟨p, rest, i, hhead, hdecode, hexec⟩
  · exact ⟨rfl, rfl, rfl⟩
  · have hi : isConstruct i = false := by
      cases i with
      | construct a b =>
        have hp : encode (.construct a b) = p := packetDecodesToItsOwnInstruction p _ hdecode
        exact absurd (hp ▸ hhead) (hother a b rest)
      | _ => rfl
    have hkept := exec_keeps_lines hexec hi
    exact hkept

/-- Settles O57: the CORE that runs keeps its lines, so it stays apart from every other. -/
theorem onlyConstructIsRefusedForASharedLine : Obligations.OnlyConstructIsRefusedForASharedLine := by
  intro cs k t hv hstep hother
  obtain ⟨hcon, hclk, hdio⟩ := step_keeps_lines hstep hother
  rw [stepInstance_of_next hv hstep, if_pos]
  refine (validConfiguration_set hv k t).2 fun j hj => ?_
  rw [disjointLines_congr hcon hclk hdio]
  exact disjointLines_of_valid hv hj

/-- Settles O58: a step that answers has set entry `k` alone, to what `step` answers for it (`stepInstance_next`). -/
theorem stepOfOneInstanceLeavesTheOthers : Obligations.StepOfOneInstanceLeavesTheOthers := by
  intro cs cs' k h
  obtain ⟨_, t, hstep, rfl, hv⟩ := stepInstance_next h
  exact ⟨hv, List.length_set, ⟨t, hstep, List.getElem?_set_self k.isLt⟩, fun _ hj => List.getElem?_set_ne hj.symm⟩

end Sys2Proof.Machine
end

section
/-! PROOFS, family 70_reset_and_hazards: power-on (R210) and the least time of `SCROLL` (R225, R235). -/

namespace Sys2Proof.Machine

open Sys2Proof.Safety

/-- Settles O46: by the definition of the state at power-on. -/
theorem powerOnState : Obligations.PowerOnState := ⟨rfl, rfl, rfl, rfl, rfl, rfl, rfl, rfl⟩

/-! The least time of `SCROLL`. -/

/-- A round sleeps once, before its diagnostics and its waveform (R157). -/
theorem sleepMilliseconds_roundWave (delayMs : Half) (w : Vector Byte 4) (b : BitVec 3) :
    sleepMilliseconds (roundWave delayMs w b) = delayMs.toNat := by
  have hcounts := counts_diags_append (encodeString w.toList).2 (counts_autoTxns 0 (encodeString w.toList).1 b)
  have hsleepless := sleepMilliseconds_of_no_sleep _ (congrArg (fun columns => columns.2.2.2.1) hcounts)
  rw [roundWave, List.cons_append, sleepMilliseconds, hsleepless, Nat.add_zero]

theorem sleepMilliseconds_rounds (delayMs : Half) (b : BitVec 3) (ws : List (Vector Byte 4)) :
    sleepMilliseconds (ws.flatMap fun w => roundWave delayMs w b) = ws.length * delayMs.toNat := by
  induction ws with
  | nil => exact (Nat.zero_mul _).symm
  | cons w rest ih =>
    rw [List.flatMap_cons, sleepMilliseconds_append, sleepMilliseconds_roundWave, ih, List.length_cons, Nat.succ_mul,
      Nat.add_comm]

/-- A round has 204 delay units of 10 microseconds (R159, R225). -/
theorem delayMicroseconds_rounds (delayMs : Half) (b : BitVec 3) (ws : List (Vector Byte 4)) :
    delayMicroseconds (ws.flatMap fun w => roundWave delayMs w b) = ws.length * 2040 := by
  obtain ⟨_, _, hcounts⟩ := counts_rounds delayMs b ws
  have hdelays : (ws.flatMap fun w => roundWave delayMs w b).countP isDelay = 204 * ws.length :=
    congrArg (fun columns => columns.2.2.1) hcounts
  rw [delayMicroseconds, hdelays, Config.delayUnitUs]
  omega

/-- Settles O37: an accepted `SCROLL` appends one round for each window, and shows as many windows as it has characters. -/
theorem scrollTakesAtLeast : Obligations.ScrollTakesAtLeast := by
  intro delayMs str s t h
  refine ⟨_, (exec_did (.inl rfl) h).tr, ?_⟩
  rw [appendedEvents, ← windows_length blankWindow str]
  exact ⟨sleepMilliseconds_rounds delayMs _ _, delayMicroseconds_rounds delayMs _ _⟩

end Sys2Proof.Machine
end
